-- ==== Sys2Proof/Word.lean ====
section
/-! DEFINITION. The word types of the CA-CORE (spec/00_scope.md R9): 32-bit words, bytes, and register numbers. -/

namespace Sys2Proof

/-- A general register, HI, LO, the PC, an address, an instruction (R9: XLEN and the instruction width are 32). -/
abbrev Word := BitVec 32

/-- The unit of memory (20_memory.md R50: byte-addressable). -/
abbrev Byte := BitVec 8

/-- The number of a general register, 0 to 31 (10_state.md R20). -/
abbrev Reg := Fin 32

/-- The link register of jal, bltzal and bgezal (R9, 10_state.md R23). -/
abbrev linkReg : Reg := 31

end Sys2Proof
end

