-- ==== Sys2Proof/Config.lean ====
section
/-! DEFINITION. The named parameters of the spec (00_scope.md R10 to R16) as plain data.
The machine reads them from State.params and no step writes them, so a statement about every state holds for every
value of every parameter (log 1). -/

namespace Sys2Proof

/-- R_LOGIC (00_scope.md R16): what the six contested funct values mean. -/
inductive RLogic where
  /-- The model gives those words no meaning. -/
  | refuse
  /-- They are the instructions of 48_r_logic_ext.md. -/
  | implement
  /-- They are unknown funct codes. -/
  | diagnose
deriving DecidableEq, Repr

/-- The byte order of the memory collaborator (20_memory.md R55). -/
inductive ByteOrder where
  /-- REFMEM: byte a is bits 7:0 of read32(a). -/
  | little
  /-- The other collaborator R55 names: byte a + 3 is bits 7:0 of read32(a). -/
  | big
deriving DecidableEq, Repr

/-- A range of byte addresses that exist: base, base + 1, up to base + size - 1. -/
structure Region where
  base : Nat
  size : Nat
deriving DecidableEq, Repr

/-- The memory collaborator's contract, MEM (00_scope.md R14; 20_memory.md R55, R57, R61, R68). -/
structure MemParams where
  /-- Byte order; REFMEM's is little. -/
  order : ByteOrder
  /-- True for a collaborator that declines a request whose address is no multiple of its width (R57, 90_conflicts.md C6).
  REFMEM's is false. -/
  alignedOnly : Bool
  /-- The byte addresses that exist: the admission function of R68, as data. -/
  regions : List Region
deriving DecidableEq, Repr

/-- The parameters the spec names (00_scope.md R10 to R14 and R16; INIT, R15, is the argument of State.boot). -/
structure Params where
  /-- HARDWIRE_R0 (R10): register 0 reads 0 and drops writes. -/
  hardwireR0 : Bool
  /-- SYSCALL_REG (R11): the register syscall reads. -/
  syscallReg : Reg
  /-- SYSCALL_EXIT (R11): the value that means exit. -/
  syscallExit : Word
  /-- REGIMM_LINK_ALWAYS (R12, OPEN): bltzal and bgezal link even when not taken. -/
  linkAlways : Bool
  /-- DIV_OVF (R13): LO after 0x80000000 / 0xFFFFFFFF, signed. -/
  divOvfLo : Word
  /-- DIV_OVF (R13): HI after 0x80000000 / 0xFFFFFFFF, signed. -/
  divOvfHi : Word
  /-- R_LOGIC (R16). -/
  rLogic : RLogic
  /-- MEM (R14). -/
  mem : MemParams
deriving DecidableEq, Repr

/-- The whole 32-bit address space. -/
def Region.everything : Region := { base := 0, size := 2 ^ 32 }

/-- REFMEM (20_memory.md R68) with every address admitted.
DESIGN CHOICE (log 8): the admission map is open, and every address exists here. Unsafe. -/
def MemParams.atReset : MemParams :=
  { order := .little, alignedOnly := false, regions := [Region.everything] }

/-- The parameters State.reset carries: the spec's defaults (R10, R11, R13; log 3), the recommended value of the OPEN
REGIMM_LINK_ALWAYS (R12; DESIGN CHOICE, log 4), and R_LOGIC = implement.
DESIGN CHOICE (log 2): 92_eei_decisions.md lets a model override the default refuse, and here the contested
instructions run. Unsafe. -/
def Params.atReset : Params :=
  { hardwireR0 := false, syscallReg := 2, syscallExit := 10, linkAlways := true
    divOvfLo := 0x80000000, divOvfHi := 0, rLogic := .implement, mem := MemParams.atReset }

end Sys2Proof
end

