-- ==== Sys2Proof/Syntax.lean ====
section
/-! DEFINITION. The instructions: one constructor per row of spec/opcode_table.json, operands in the order of the
assembler syntax of 30_encoding.md R96. Fields an instruction does not use are don't-care (R90) and are no operands. -/

namespace Sys2Proof

/-- The 47 instructions of the CA-CORE subset (00_scope.md R4) and the 6 contested ones. -/
inductive Instr where
  -- R-format arithmetic (41_r_alu.md)
  /-- R140: rd <- rs + rt, no overflow trap. -/
  | add (rd rs rt : Reg)
  /-- R141: rd <- rs + rt. -/
  | addu (rd rs rt : Reg)
  /-- R142: rd <- rs - rt, no overflow trap. -/
  | sub (rd rs rt : Reg)
  /-- R143: rd <- rs - rt. -/
  | subu (rd rs rt : Reg)
  -- Shifts by an immediate amount (41_r_alu.md)
  /-- R144: rd <- rt << shamt. -/
  | sll (rd rt : Reg) (shamt : BitVec 5)
  /-- R145: rd <- rt >>u shamt. -/
  | srl (rd rt : Reg) (shamt : BitVec 5)
  /-- R146: rd <- rt >>s shamt. -/
  | sra (rd rt : Reg) (shamt : BitVec 5)
  -- Shifts by a register amount (41_r_alu.md)
  /-- R147: rd <- rt << rs[4:0]. -/
  | sllv (rd rt rs : Reg)
  /-- R148: rd <- rt >>u rs[4:0]. -/
  | srlv (rd rt rs : Reg)
  /-- R149: rd <- rt >>s rs[4:0]. -/
  | srav (rd rt rs : Reg)
  -- Multiply, divide, HI and LO (42_r_hilo.md)
  /-- R160: HI:LO <- signed product. -/
  | mult (rs rt : Reg)
  /-- R161: HI:LO <- unsigned product. -/
  | multu (rs rt : Reg)
  /-- R162: LO, HI <- signed quotient, remainder. -/
  | div (rs rt : Reg)
  /-- R163: LO, HI <- unsigned quotient, remainder. -/
  | divu (rs rt : Reg)
  /-- R164: rd <- HI. -/
  | mfhi (rd : Reg)
  /-- R165: rd <- LO. -/
  | mflo (rd : Reg)
  /-- R166: HI <- rs. -/
  | mthi (rs : Reg)
  /-- R167: LO <- rs. -/
  | mtlo (rs : Reg)
  -- Register jumps and system call (43_r_control.md)
  /-- R180: pc <- rs. -/
  | jr (rs : Reg)
  /-- R181: pc <- rs, rd <- pc + 4. -/
  | jalr (rd rs : Reg)
  /-- R182: clear the run flag if the exit code is requested. -/
  | syscall
  -- Conditional branches (44_i_branch.md)
  /-- R201: taken if rs = rt. -/
  | beq (rs rt : Reg) (imm : BitVec 16)
  /-- R202: taken if rs ≠ rt. -/
  | bne (rs rt : Reg) (imm : BitVec 16)
  /-- R203: taken if rs <= 0, signed. -/
  | blez (rs : Reg) (imm : BitVec 16)
  /-- R204: taken if rs > 0, signed. -/
  | bgtz (rs : Reg) (imm : BitVec 16)
  /-- R205: taken if rs < 0, signed. -/
  | bltz (rs : Reg) (imm : BitVec 16)
  /-- R206: taken if rs >= 0, signed. -/
  | bgez (rs : Reg) (imm : BitVec 16)
  /-- R207: bltz with a link in r31. -/
  | bltzal (rs : Reg) (imm : BitVec 16)
  /-- R208: bgez with a link in r31. -/
  | bgezal (rs : Reg) (imm : BitVec 16)
  -- Immediate arithmetic and logic (45_i_alu.md)
  /-- R220: rt <- rs + sext imm, no overflow trap. -/
  | addi (rt rs : Reg) (imm : BitVec 16)
  /-- R221: rt <- rs + sext imm. -/
  | addiu (rt rs : Reg) (imm : BitVec 16)
  /-- R222: rt <- rs < sext imm, signed. -/
  | slti (rt rs : Reg) (imm : BitVec 16)
  /-- R223: rt <- rs < sext imm, unsigned. -/
  | sltiu (rt rs : Reg) (imm : BitVec 16)
  /-- R224: rt <- rs & zext imm. -/
  | andi (rt rs : Reg) (imm : BitVec 16)
  /-- R225: rt <- rs | zext imm. -/
  | ori (rt rs : Reg) (imm : BitVec 16)
  /-- R226: rt <- rs ^ zext imm. -/
  | xori (rt rs : Reg) (imm : BitVec 16)
  /-- R227: rt <- imm in the high half. -/
  | lui (rt : Reg) (imm : BitVec 16)
  -- Loads and stores (46_i_loadstore.md): op rt, imm(rs)
  /-- R242: load byte, sign-extended. -/
  | lb (rt rs : Reg) (imm : BitVec 16)
  /-- R243: load halfword, sign-extended. -/
  | lh (rt rs : Reg) (imm : BitVec 16)
  /-- R244: load word. -/
  | lw (rt rs : Reg) (imm : BitVec 16)
  /-- R245: load byte, zero-extended. -/
  | lbu (rt rs : Reg) (imm : BitVec 16)
  /-- R246: load halfword, zero-extended. -/
  | lhu (rt rs : Reg) (imm : BitVec 16)
  /-- R247: store byte. -/
  | sb (rt rs : Reg) (imm : BitVec 16)
  /-- R248: store halfword. -/
  | sh (rt rs : Reg) (imm : BitVec 16)
  /-- R249: store word. -/
  | sw (rt rs : Reg) (imm : BitVec 16)
  -- Jumps (47_j_jump.md)
  /-- R260: jump in the current region. -/
  | j (target : BitVec 26)
  /-- R261: jump and link in r31. -/
  | jal (target : BitVec 26)
  -- Contested logic and compare (48_r_logic_ext.md, under R_LOGIC = implement)
  /-- R270: rd <- rs & rt. -/
  | and (rd rs rt : Reg)
  /-- R271: rd <- rs | rt. -/
  | or (rd rs rt : Reg)
  /-- R272: rd <- rs ^ rt. -/
  | xor (rd rs rt : Reg)
  /-- R273: rd <- ~(rs | rt). -/
  | nor (rd rs rt : Reg)
  /-- R274: rd <- rs < rt, signed. -/
  | slt (rd rs rt : Reg)
  /-- R275: rd <- rs < rt, unsigned. -/
  | sltu (rd rs rt : Reg)
deriving DecidableEq, Repr

/-- The three classes of unrecognised word (60_exceptions.md R301). -/
inductive UnknownKind where
  /-- The opcode is none of 30_encoding.md R91. -/
  | opcode
  /-- Opcode 0 with a funct that is none of R92. -/
  | funct
  /-- Opcode 1 with an rt that is none of R93. -/
  | regimm
deriving DecidableEq, Repr

/-- The numeric code of a kind on diag_kind (60_exceptions.md R301). -/
def UnknownKind.code : UnknownKind → BitVec 2
  | .opcode => 1
  | .funct => 2
  | .regimm => 3

/-- What the decoder reads from a word (30_encoding.md R89, R94, R95). -/
inductive Decoded where
  /-- The word is an instruction. -/
  | instr (i : Instr)
  /-- The word is unknown, of the named class: a diagnostic and a no-op. -/
  | unknown (k : UnknownKind)
  /-- The word is a contested one, and R_LOGIC = refuse gives it no meaning. -/
  | contested
deriving DecidableEq, Repr

end Sys2Proof
end

