-- ==== Sys2Proof/WellFormed.lean ====
section
/-! DEFINITION. When an instruction is one of the machine's: the types of Instr's fields already bound every operand
(30_encoding.md R81), so the one check left is R_LOGIC's over the contested six (R94). -/

namespace Sys2Proof

/-- The six contested instructions (00_scope.md R4, 30_encoding.md R94). -/
def Instr.isContested : Instr → Bool
  | .and _ _ _ | .or _ _ _ | .xor _ _ _ | .nor _ _ _ | .slt _ _ _ | .sltu _ _ _ => true
  | .add _ _ _ | .addu _ _ _ | .sub _ _ _ | .subu _ _ _ | .sll _ _ _ | .srl _ _ _ | .sra _ _ _ => false
  | .sllv _ _ _ | .srlv _ _ _ | .srav _ _ _ | .mult _ _ | .multu _ _ | .div _ _ | .divu _ _ => false
  | .mfhi _ | .mflo _ | .mthi _ | .mtlo _ | .jr _ | .jalr _ _ | .syscall => false
  | .beq _ _ _ | .bne _ _ _ | .blez _ _ | .bgtz _ _ | .bltz _ _ | .bgez _ _ | .bltzal _ _ | .bgezal _ _ => false
  | .addi _ _ _ | .addiu _ _ _ | .slti _ _ _ | .sltiu _ _ _ | .andi _ _ _ | .ori _ _ _ | .xori _ _ _ | .lui _ _ => false
  | .lb _ _ _ | .lh _ _ _ | .lw _ _ _ | .lbu _ _ _ | .lhu _ _ _ | .sb _ _ _ | .sh _ _ _ | .sw _ _ _ => false
  | .j _ | .jal _ => false

/-- Well-formed under R_LOGIC: a contested instruction is one only under implement (R94). -/
def Instr.wellFormed (m : RLogic) (i : Instr) : Bool := !i.isContested || m == .implement

end Sys2Proof
end

