-- ==== Sys2Proof/Decode.lean ====
section
/-! DEFINITION. Field extraction, the table of numeric codes, the decoder (total on every 32-bit word) and the encoder
(spec/30_encoding.md). -/

namespace Sys2Proof

/-! ## Field extraction (R81) -/

/-- The fields of R81, each defined for every word (R85). -/
structure Fields where
  opcode : BitVec 6
  rs : BitVec 5
  rt : BitVec 5
  rd : BitVec 5
  shamt : BitVec 5
  funct : BitVec 6
  imm16 : BitVec 16
  simm : Word
  target26 : BitVec 26
deriving DecidableEq, Repr

/-- The field extractor (R81): pure bit extraction. -/
def fields (w : Word) : Fields :=
  { opcode := w.extractLsb' 26 6
    rs := w.extractLsb' 21 5
    rt := w.extractLsb' 16 5
    rd := w.extractLsb' 11 5
    shamt := w.extractLsb' 6 5
    funct := w.extractLsb' 0 6
    imm16 := w.extractLsb' 0 16
    simm := (w.extractLsb' 0 16).signExtend 32
    target26 := w.extractLsb' 0 26 }

/-- The register a 5-bit field names (10_state.md R20). -/
def reg (b : BitVec 5) : Reg := b.toFin

/-- The 5-bit field that names a register. -/
def regBits (r : Reg) : BitVec 5 := BitVec.ofFin r

/-! ## The numeric codes, in one place (91_not_in_source.md N1)

Opcodes 0 to 3 are the document's. Every other number is the MIPS I value that the spec chose from general knowledge
(R91 to R94, 92_eei_decisions.md D5; log 14, PRESUMED, unsafe). -/

namespace Code

/-- Opcode 0: the R-format, selected by funct. -/
abbrev special : BitVec 6 := 0x00
/-- Opcode 1: the branch family, selected by rt. -/
abbrev regimm : BitVec 6 := 0x01

/-! Opcodes (R91) -/
abbrev j : BitVec 6 := 0x02
abbrev jal : BitVec 6 := 0x03
abbrev beq : BitVec 6 := 0x04
abbrev bne : BitVec 6 := 0x05
abbrev blez : BitVec 6 := 0x06
abbrev bgtz : BitVec 6 := 0x07
abbrev addi : BitVec 6 := 0x08
abbrev addiu : BitVec 6 := 0x09
abbrev slti : BitVec 6 := 0x0A
abbrev sltiu : BitVec 6 := 0x0B
abbrev andi : BitVec 6 := 0x0C
abbrev ori : BitVec 6 := 0x0D
abbrev xori : BitVec 6 := 0x0E
abbrev lui : BitVec 6 := 0x0F
abbrev lb : BitVec 6 := 0x20
abbrev lh : BitVec 6 := 0x21
abbrev lw : BitVec 6 := 0x23
abbrev lbu : BitVec 6 := 0x24
abbrev lhu : BitVec 6 := 0x25
abbrev sb : BitVec 6 := 0x28
abbrev sh : BitVec 6 := 0x29
abbrev sw : BitVec 6 := 0x2B

/-! Funct values (R92) -/
abbrev sll : BitVec 6 := 0x00
abbrev srl : BitVec 6 := 0x02
abbrev sra : BitVec 6 := 0x03
abbrev sllv : BitVec 6 := 0x04
abbrev srlv : BitVec 6 := 0x06
abbrev srav : BitVec 6 := 0x07
abbrev jr : BitVec 6 := 0x08
abbrev jalr : BitVec 6 := 0x09
abbrev syscall : BitVec 6 := 0x0C
abbrev mfhi : BitVec 6 := 0x10
abbrev mthi : BitVec 6 := 0x11
abbrev mflo : BitVec 6 := 0x12
abbrev mtlo : BitVec 6 := 0x13
abbrev mult : BitVec 6 := 0x18
abbrev multu : BitVec 6 := 0x19
abbrev div : BitVec 6 := 0x1A
abbrev divu : BitVec 6 := 0x1B
abbrev add : BitVec 6 := 0x20
abbrev addu : BitVec 6 := 0x21
abbrev sub : BitVec 6 := 0x22
abbrev subu : BitVec 6 := 0x23

/-! Contested funct values (R94) -/
abbrev and : BitVec 6 := 0x24
abbrev or : BitVec 6 := 0x25
abbrev xor : BitVec 6 := 0x26
abbrev nor : BitVec 6 := 0x27
abbrev slt : BitVec 6 := 0x2A
abbrev sltu : BitVec 6 := 0x2B

/-! REGIMM sub-codes (R93) -/
abbrev bltz : BitVec 5 := 0x00
abbrev bgez : BitVec 5 := 0x01
abbrev bltzal : BitVec 5 := 0x10
abbrev bgezal : BitVec 5 := 0x11

end Code

/-! ## The decoder (R89 to R95) -/

/-- The opcodes that select an instruction by themselves (R91). -/
def opcodeTable : List (BitVec 6 × (Fields → Instr)) :=
  [(Code.j, fun f => .j f.target26),
   (Code.jal, fun f => .jal f.target26),
   (Code.beq, fun f => .beq (reg f.rs) (reg f.rt) f.imm16),
   (Code.bne, fun f => .bne (reg f.rs) (reg f.rt) f.imm16),
   (Code.blez, fun f => .blez (reg f.rs) f.imm16),
   (Code.bgtz, fun f => .bgtz (reg f.rs) f.imm16),
   (Code.addi, fun f => .addi (reg f.rt) (reg f.rs) f.imm16),
   (Code.addiu, fun f => .addiu (reg f.rt) (reg f.rs) f.imm16),
   (Code.slti, fun f => .slti (reg f.rt) (reg f.rs) f.imm16),
   (Code.sltiu, fun f => .sltiu (reg f.rt) (reg f.rs) f.imm16),
   (Code.andi, fun f => .andi (reg f.rt) (reg f.rs) f.imm16),
   (Code.ori, fun f => .ori (reg f.rt) (reg f.rs) f.imm16),
   (Code.xori, fun f => .xori (reg f.rt) (reg f.rs) f.imm16),
   (Code.lui, fun f => .lui (reg f.rt) f.imm16),
   (Code.lb, fun f => .lb (reg f.rt) (reg f.rs) f.imm16),
   (Code.lh, fun f => .lh (reg f.rt) (reg f.rs) f.imm16),
   (Code.lw, fun f => .lw (reg f.rt) (reg f.rs) f.imm16),
   (Code.lbu, fun f => .lbu (reg f.rt) (reg f.rs) f.imm16),
   (Code.lhu, fun f => .lhu (reg f.rt) (reg f.rs) f.imm16),
   (Code.sb, fun f => .sb (reg f.rt) (reg f.rs) f.imm16),
   (Code.sh, fun f => .sh (reg f.rt) (reg f.rs) f.imm16),
   (Code.sw, fun f => .sw (reg f.rt) (reg f.rs) f.imm16)]

/-- The 21 assigned funct values of opcode 0 (R92). -/
def functTable : List (BitVec 6 × (Fields → Instr)) :=
  [(Code.sll, fun f => .sll (reg f.rd) (reg f.rt) f.shamt),
   (Code.srl, fun f => .srl (reg f.rd) (reg f.rt) f.shamt),
   (Code.sra, fun f => .sra (reg f.rd) (reg f.rt) f.shamt),
   (Code.sllv, fun f => .sllv (reg f.rd) (reg f.rt) (reg f.rs)),
   (Code.srlv, fun f => .srlv (reg f.rd) (reg f.rt) (reg f.rs)),
   (Code.srav, fun f => .srav (reg f.rd) (reg f.rt) (reg f.rs)),
   (Code.jr, fun f => .jr (reg f.rs)),
   (Code.jalr, fun f => .jalr (reg f.rd) (reg f.rs)),
   (Code.syscall, fun _ => .syscall),
   (Code.mfhi, fun f => .mfhi (reg f.rd)),
   (Code.mthi, fun f => .mthi (reg f.rs)),
   (Code.mflo, fun f => .mflo (reg f.rd)),
   (Code.mtlo, fun f => .mtlo (reg f.rs)),
   (Code.mult, fun f => .mult (reg f.rs) (reg f.rt)),
   (Code.multu, fun f => .multu (reg f.rs) (reg f.rt)),
   (Code.div, fun f => .div (reg f.rs) (reg f.rt)),
   (Code.divu, fun f => .divu (reg f.rs) (reg f.rt)),
   (Code.add, fun f => .add (reg f.rd) (reg f.rs) (reg f.rt)),
   (Code.addu, fun f => .addu (reg f.rd) (reg f.rs) (reg f.rt)),
   (Code.sub, fun f => .sub (reg f.rd) (reg f.rs) (reg f.rt)),
   (Code.subu, fun f => .subu (reg f.rd) (reg f.rs) (reg f.rt))]

/-- The six contested funct values of opcode 0 (R94). -/
def contestedTable : List (BitVec 6 × (Fields → Instr)) :=
  [(Code.and, fun f => .and (reg f.rd) (reg f.rs) (reg f.rt)),
   (Code.or, fun f => .or (reg f.rd) (reg f.rs) (reg f.rt)),
   (Code.xor, fun f => .xor (reg f.rd) (reg f.rs) (reg f.rt)),
   (Code.nor, fun f => .nor (reg f.rd) (reg f.rs) (reg f.rt)),
   (Code.slt, fun f => .slt (reg f.rd) (reg f.rs) (reg f.rt)),
   (Code.sltu, fun f => .sltu (reg f.rd) (reg f.rs) (reg f.rt))]

/-- The four sub-codes of opcode 1 (R93). -/
def regimmTable : List (BitVec 5 × (Fields → Instr)) :=
  [(Code.bltz, fun f => .bltz (reg f.rs) f.imm16),
   (Code.bgez, fun f => .bgez (reg f.rs) f.imm16),
   (Code.bltzal, fun f => .bltzal (reg f.rs) f.imm16),
   (Code.bgezal, fun f => .bgezal (reg f.rs) f.imm16)]

/-- A contested word, by R_LOGIC (R94). -/
def decodeContested (m : RLogic) (i : Instr) : Decoded :=
  match m with
  | .implement => .instr i
  | .diagnose => .unknown .funct
  | .refuse => .contested

/-- Opcode 0: by funct (R92, R94; 43_r_control.md R183). -/
def decodeFunct (m : RLogic) (f : Fields) : Decoded :=
  match functTable.lookup f.funct with
  | some build => .instr (build f)
  | none =>
    match contestedTable.lookup f.funct with
    | some build => decodeContested m (build f)
    | none => .unknown .funct

/-- Opcode 1: by the rt field (R93). -/
def decodeRegimm (f : Fields) : Decoded :=
  match regimmTable.lookup f.rt with
  | some build => .instr (build f)
  | none => .unknown .regimm

/-- Every other opcode (R91). -/
def decodeOpcode (f : Fields) : Decoded :=
  match opcodeTable.lookup f.opcode with
  | some build => .instr (build f)
  | none => .unknown .opcode

/-- The decoder, on extracted fields (the tree of R89). -/
def decodeFields (m : RLogic) (f : Fields) : Decoded :=
  if f.opcode = Code.special then decodeFunct m f
  else if f.opcode = Code.regimm then decodeRegimm f
  else decodeOpcode f

/-- The decoder: every one of the 2^32 words has a reading (R98). -/
def decode (m : RLogic) (w : Word) : Decoded := decodeFields m (fields w)

/-- What the decoder reads from an instruction of nbits bits, bit 0 the least significant bit of its one word, with
R_LOGIC as State.reset has it. -/
def decodeTableWord (nbits w : Nat) : Option Instr :=
  match decode Params.atReset.rLogic (BitVec.ofNat 32 (w % 2 ^ nbits)) with
  | .instr i => some i
  | .unknown _ => none
  | .contested => none

/-! ## The encoder (R82 to R84): unused fields are written as zeros (log 15) -/

/-- The R-format layout (R82). -/
def wordR (rs rt rd : Reg) (shamt : BitVec 5) (funct : BitVec 6) : Word :=
  Code.special ++ regBits rs ++ regBits rt ++ regBits rd ++ shamt ++ funct

/-- The I-format layout (R83), with the raw bits of the rt field. -/
def wordI (opcode : BitVec 6) (rs : Reg) (rt : BitVec 5) (imm : BitVec 16) : Word :=
  opcode ++ regBits rs ++ rt ++ imm

/-- The J-format layout (R84). -/
def wordJ (opcode : BitVec 6) (target : BitVec 26) : Word := opcode ++ target

/-- The word of an instruction. -/
def encode : Instr → Word
  | .add rd rs rt => wordR rs rt rd 0 Code.add
  | .addu rd rs rt => wordR rs rt rd 0 Code.addu
  | .sub rd rs rt => wordR rs rt rd 0 Code.sub
  | .subu rd rs rt => wordR rs rt rd 0 Code.subu
  | .sll rd rt shamt => wordR 0 rt rd shamt Code.sll
  | .srl rd rt shamt => wordR 0 rt rd shamt Code.srl
  | .sra rd rt shamt => wordR 0 rt rd shamt Code.sra
  | .sllv rd rt rs => wordR rs rt rd 0 Code.sllv
  | .srlv rd rt rs => wordR rs rt rd 0 Code.srlv
  | .srav rd rt rs => wordR rs rt rd 0 Code.srav
  | .mult rs rt => wordR rs rt 0 0 Code.mult
  | .multu rs rt => wordR rs rt 0 0 Code.multu
  | .div rs rt => wordR rs rt 0 0 Code.div
  | .divu rs rt => wordR rs rt 0 0 Code.divu
  | .mfhi rd => wordR 0 0 rd 0 Code.mfhi
  | .mflo rd => wordR 0 0 rd 0 Code.mflo
  | .mthi rs => wordR rs 0 0 0 Code.mthi
  | .mtlo rs => wordR rs 0 0 0 Code.mtlo
  | .jr rs => wordR rs 0 0 0 Code.jr
  | .jalr rd rs => wordR rs 0 rd 0 Code.jalr
  | .syscall => wordR 0 0 0 0 Code.syscall
  | .beq rs rt imm => wordI Code.beq rs (regBits rt) imm
  | .bne rs rt imm => wordI Code.bne rs (regBits rt) imm
  | .blez rs imm => wordI Code.blez rs 0 imm
  | .bgtz rs imm => wordI Code.bgtz rs 0 imm
  | .bltz rs imm => wordI Code.regimm rs Code.bltz imm
  | .bgez rs imm => wordI Code.regimm rs Code.bgez imm
  | .bltzal rs imm => wordI Code.regimm rs Code.bltzal imm
  | .bgezal rs imm => wordI Code.regimm rs Code.bgezal imm
  | .addi rt rs imm => wordI Code.addi rs (regBits rt) imm
  | .addiu rt rs imm => wordI Code.addiu rs (regBits rt) imm
  | .slti rt rs imm => wordI Code.slti rs (regBits rt) imm
  | .sltiu rt rs imm => wordI Code.sltiu rs (regBits rt) imm
  | .andi rt rs imm => wordI Code.andi rs (regBits rt) imm
  | .ori rt rs imm => wordI Code.ori rs (regBits rt) imm
  | .xori rt rs imm => wordI Code.xori rs (regBits rt) imm
  | .lui rt imm => wordI Code.lui 0 (regBits rt) imm
  | .lb rt rs imm => wordI Code.lb rs (regBits rt) imm
  | .lh rt rs imm => wordI Code.lh rs (regBits rt) imm
  | .lw rt rs imm => wordI Code.lw rs (regBits rt) imm
  | .lbu rt rs imm => wordI Code.lbu rs (regBits rt) imm
  | .lhu rt rs imm => wordI Code.lhu rs (regBits rt) imm
  | .sb rt rs imm => wordI Code.sb rs (regBits rt) imm
  | .sh rt rs imm => wordI Code.sh rs (regBits rt) imm
  | .sw rt rs imm => wordI Code.sw rs (regBits rt) imm
  | .j target => wordJ Code.j target
  | .jal target => wordJ Code.jal target
  | .and rd rs rt => wordR rs rt rd 0 Code.and
  | .or rd rs rt => wordR rs rt rd 0 Code.or
  | .xor rd rs rt => wordR rs rt rd 0 Code.xor
  | .nor rd rs rt => wordR rs rt rd 0 Code.nor
  | .slt rd rs rt => wordR rs rt rd 0 Code.slt
  | .sltu rd rs rt => wordR rs rt rd 0 Code.sltu

/-- The bits an instruction uses: its codes and its operand fields. Every other bit is don't-care (R90). -/
def Instr.usedMask : Instr → Word
  | .add _ _ _ | .addu _ _ _ | .sub _ _ _ | .subu _ _ _ | .sllv _ _ _ | .srlv _ _ _ | .srav _ _ _
  | .and _ _ _ | .or _ _ _ | .xor _ _ _ | .nor _ _ _ | .slt _ _ _ | .sltu _ _ _ => 0xFFFFF83F
  | .sll _ _ _ | .srl _ _ _ | .sra _ _ _ | .lui _ _ => 0xFC1FFFFF
  | .mult _ _ | .multu _ _ | .div _ _ | .divu _ _ => 0xFFFF003F
  | .mfhi _ | .mflo _ => 0xFC00F83F
  | .mthi _ | .mtlo _ | .jr _ => 0xFFE0003F
  | .jalr _ _ => 0xFFE0F83F
  | .syscall => 0xFC00003F
  | .beq _ _ _ | .bne _ _ _ | .bltz _ _ | .bgez _ _ | .bltzal _ _ | .bgezal _ _ | .addi _ _ _ | .addiu _ _ _
  | .slti _ _ _ | .sltiu _ _ _ | .andi _ _ _ | .ori _ _ _ | .xori _ _ _ | .lb _ _ _ | .lh _ _ _ | .lw _ _ _
  | .lbu _ _ _ | .lhu _ _ _ | .sb _ _ _ | .sh _ _ _ | .sw _ _ _ | .j _ | .jal _ => 0xFFFFFFFF
  | .blez _ _ | .bgtz _ _ => 0xFFE0FFFF

end Sys2Proof
end

