-- ==== Sys2Proof/Machine/State.lean ====
section
/-! DEFINITION. The machine's state as plain data (spec/10_state.md), the reasons a step can stop, and the state after
reset. -/

namespace Sys2Proof.Machine

/-- One snapshot of the machine state: the record of 10_state.md section 1. -/
structure Snapshot where
  /-- r0 to r31 (R20). Register 0 is stored like any other; HARDWIRE_R0 acts in readGPR and writeGPR (R21). -/
  gpr : Vector Word 32
  /-- The program counter (R24). -/
  pc : Word
  /-- HI (R25). -/
  hi : Word
  /-- LO (R25). -/
  lo : Word
deriving DecidableEq, Repr

/-- Memory: the bytes that differ from what an unlisted address reads as, addresses strictly rising (Memory.wf). -/
abbrev Memory := List Host.Cell

/-- The width of a write32 call (20_memory.md R52). -/
inductive Width where
  | b8
  | b16
  | b32
deriving DecidableEq, Repr

/-- A diagnostic event Diag(kind, pc, word) (40_cycle.md R131, 60_exceptions.md R301). -/
structure Diag where
  kind : UnknownKind
  pc : Word
  word : Word
deriving DecidableEq, Repr

/-- What one invocation shows outside the snapshot: its memory calls in order, then at most one of a diagnostic and
RunClear (40_cycle.md R121, R125). -/
inductive Event where
  /-- The fetch: read32(addr) answered data. -/
  | fetch (addr data : Word)
  /-- A load's read32(addr) answered data. -/
  | load (addr data : Word)
  /-- A store's write32(addr, value, width). -/
  | store (addr value : Word) (width : Width)
  /-- A diagnostic (R131). -/
  | diag (d : Diag)
  /-- The run flag was cleared (R130). -/
  | runClear
deriving DecidableEq, Repr

/-- The machine. The spec's own state is cur, nxt, mem and run; events, diags and cycles hold what the spec makes
outputs of an invocation or counts of the driver (log 12); params holds the spec's named parameters (log 1). -/
structure State where
  /-- The current snapshot: every read comes from it (R28). -/
  cur : Snapshot
  /-- The next snapshot: every write goes to it (R28). Equal to cur between invocations (R29). -/
  nxt : Snapshot
  /-- The memory collaborator's contents (R33, 20_memory.md R68). -/
  mem : Memory
  /-- The run flag (R30). The core writes it and never reads it; the driver reads it. -/
  run : Bool
  /-- The events of the invocation last begun, in order (R125). -/
  events : List Event
  /-- The diagnostics of every invocation so far, in order (70_reset_and_hazards.md R334). -/
  diags : List Diag
  /-- The driver's count of committed invocations (R341); no instruction reads it (60_exceptions.md R309). -/
  cycles : Nat
  /-- The parameters (00_scope.md R10 to R14, R16). Never written. -/
  params : Params
deriving DecidableEq, Repr

/-- Why a step has no successor. The core raises no exception (60_exceptions.md R300): the first two are the spec's
Stuck (40_cycle.md R125), the third is the driver's (log 11). -/
inductive Fault where
  /-- Stuck(FetchNotAdmitted(pc)), raised by the fetch of every cycle (R122). Safe: the spec gives no successor. -/
  | fetchNotAdmitted (pc : Word)
  /-- Stuck(DataNotAdmitted(ea)), raised by the loads and stores (46_i_loadstore.md R240). Safe: the spec gives no
  successor. -/
  | dataNotAdmitted (ea : Word)
  /-- The run flag is clear, so the driver invokes the core no more (R130, R132): raised by the driver's cycle, the
  normal end of a run. Safe: the machine stops where the driver stops it. -/
  | halted
deriving DecidableEq, Repr

/-- Why a word has no meaning. -/
inductive Refusal where
  /-- An arm of exec whose instruction has no meaning yet. Safe: nothing is claimed of it. -/
  | notModelled (mnemonic : String)
  /-- Refused(word): a contested funct value under R_LOGIC = refuse (R125), raised by the cycle at decode. Safe: the
  spec gives the word no meaning under that value. -/
  | contested (word : Word)
deriving DecidableEq, Repr

/-- The state the environment sets up before the first invocation (70_reset_and_hazards.md R333): the snapshots equal
to INIT, the loaded memory, the run flag set. -/
def State.boot (params : Params) (init : Snapshot) (mem : Memory) : State :=
  { cur := init, nxt := init, mem := mem, run := true, events := [], diags := [], cycles := 0, params := params }

/-- The INIT of State.reset. The spec gives no reset value (R34): the registers, HI and LO are 0 (DESIGN CHOICE, log 5,
unsafe) and the PC is the RESET_PC of the spec's examples (R332; DESIGN CHOICE, log 6, unsafe). -/
def Snapshot.atReset : Snapshot :=
  { gpr := Vector.replicate 32 0, pc := 0x00400000, hi := 0, lo := 0 }

/-- The machine right after reset: no program loaded (log 16). -/
def State.reset : State := State.boot Params.atReset Snapshot.atReset []

end Sys2Proof.Machine
end

