-- ==== Sys2Proof/Machine/Ops.lean ====
section
/-! DEFINITION. The named operations over registers, memory and outputs. The core has no exceptions
(spec/60_exceptions.md R300, R305, R306), so there is no operation that takes one and none that returns from one. -/

namespace Sys2Proof.Machine

/-! ## Registers (spec/40_cycle.md R128, R129; spec/10_state.md R28) -/

/-- One register of a snapshot replaced. -/
def Snapshot.setGPR (x : Snapshot) (r : Reg) (v : Word) : Snapshot :=
  { x with gpr := x.gpr.set r.val v r.isLt }

/-- readGPR (R129): x[i], read from the current snapshot. -/
def State.readGPR (s : State) (r : Reg) : Word :=
  if s.params.hardwireR0 = true ∧ r = 0 then 0 else s.cur.gpr.get r

/-- writeGPR (R128): x[i] <- v, written to the next snapshot. -/
def State.writeGPR (s : State) (r : Reg) (v : Word) : State :=
  if s.params.hardwireR0 = true ∧ r = 0 then s else { s with nxt := s.nxt.setGPR r v }

/-- pc <- target: the last write of an invocation wins (R123). -/
def State.writePC (s : State) (v : Word) : State := { s with nxt := { s.nxt with pc := v } }

/-- HI <- v. -/
def State.writeHI (s : State) (v : Word) : State := { s with nxt := { s.nxt with hi := v } }

/-- LO <- v. -/
def State.writeLO (s : State) (v : Word) : State := { s with nxt := { s.nxt with lo := v } }

/-- HI and LO both written, as mult, multu, div and divu do (R25). -/
def State.writeHiLo (s : State) (hi lo : Word) : State := (s.writeHI hi).writeLO lo

/-- PC(current) + 4, the fallthrough and every link value (R123, 47_j_jump.md R262). -/
def State.pcPlus4 (s : State) : Word := s.cur.pc + 4

/-! ## Outputs (spec/40_cycle.md R125, R130, R131) -/

/-- An event appended to this invocation's. -/
def State.emit (s : State) (e : Event) : State := { s with events := s.events ++ [e] }

/-- emit RunClear (R130). -/
def State.emitRunClear (s : State) : State := { s.emit .runClear with run := false }

/-- emit Diag(kind, pc, word) (R131), collected also by the driver (R334). -/
def State.emitDiag (s : State) (d : Diag) : State := { s.emit (.diag d) with diags := s.diags ++ [d] }

/-! ## Memory, one byte (spec/20_memory.md R50, R68) -/

/-- What a byte reads as that nothing has written. DESIGN CHOICE (log 7): 0, as in the start state of
95_test_vectors.md section 3. Unsafe. -/
def Memory.unlisted : Byte := 0

/-- The byte at an address. -/
def Memory.read : Memory → Nat → Byte
  | [], _ => Memory.unlisted
  | (c, x) :: m, a => if a = c then x else Memory.read m a

/-- A cell put before a list, unless it says what an unlisted address says anyway. -/
def Memory.cons (a : Nat) (b : Byte) (m : Memory) : Memory :=
  if b = Memory.unlisted then m else (a, b) :: m

/-- One byte written, the canonical form kept. -/
def Memory.write : Memory → Nat → Byte → Memory
  | [], a, b => Memory.cons a b []
  | (c, x) :: m, a, b =>
    if a < c then Memory.cons a b ((c, x) :: m)
    else if a = c then Memory.cons a b m
    else (c, x) :: Memory.write m a b

/-- The canonical form, with every address at least lo. -/
def Memory.wfFrom : Nat → Memory → Bool
  | _, [] => true
  | lo, (a, b) :: m => decide (lo ≤ a) && decide (a < 2 ^ 32) && decide (b ≠ Memory.unlisted) && Memory.wfFrom (a + 1) m

/-- The canonical form: addresses in the space and strictly rising, no entry an unlisted address reads as anyway. -/
def Memory.wf (m : Memory) : Bool := Memory.wfFrom 0 m

/-! ## Memory, read32 and write32 (spec/20_memory.md R51, R52, R55, R68) -/

/-- The key of byte k of an access at a: all addresses are modulo 2^32 (R68). -/
def byteAddr (a : Word) (k : Nat) : Nat := (a + BitVec.ofNat 32 k).toNat

/-- The number of bytes of a write. -/
def Width.bytes : Width → Nat
  | .b8 => 1
  | .b16 => 2
  | .b32 => 4

/-- read32: four bytes in the collaborator's byte order (R55, R68). -/
def Memory.read32 (m : Memory) (o : ByteOrder) (a : Word) : Word :=
  match o with
  | .little => m.read (byteAddr a 3) ++ m.read (byteAddr a 2) ++ m.read (byteAddr a 1) ++ m.read (byteAddr a 0)
  | .big => m.read (byteAddr a 0) ++ m.read (byteAddr a 1) ++ m.read (byteAddr a 2) ++ m.read (byteAddr a 3)

/-- The byte that a write of n bytes puts at offset k (R55, R68). Big-endian: the high end of the width first, DESIGN
CHOICE (log 9), since R55 gives the reading order of that collaborator and no write layout. Unsafe. -/
def storedByte (o : ByteOrder) (n : Nat) (v : Word) (k : Nat) : Byte :=
  match o with
  | .little => v.extractLsb' (8 * k) 8
  | .big => v.extractLsb' (8 * (n - 1 - k)) 8

/-- The bytes of offsets k, k + 1, up to k + left - 1 of a write of n bytes, written in turn. -/
def Memory.writeBytes (o : ByteOrder) (n : Nat) (a v : Word) : Nat → Nat → Memory → Memory
  | 0, _, m => m
  | left + 1, k, m => Memory.writeBytes o n a v left (k + 1) (m.write (byteAddr a k) (storedByte o n v k))

/-- write32: exactly width / 8 bytes change (R52, R68). -/
def Memory.write32 (m : Memory) (o : ByteOrder) (a v : Word) (w : Width) : Memory :=
  Memory.writeBytes o w.bytes a v w.bytes 0 m

/-! ## Admission (spec/20_memory.md R54, R57, R61, R68) -/

/-- Whether a byte address lies in a region. -/
def regionHas (r : Region) (a : Nat) : Bool := decide (r.base ≤ a) && decide (a < r.base + r.size)

/-- The admission function of one byte address (R68). -/
def admitsByte (p : MemParams) (a : Nat) : Bool := p.regions.any fun r => regionHas r a

/-- Whether a request of n bytes at a is admitted: every byte is (R68), and where the collaborator takes aligned
requests only, a is a multiple of n (R57). -/
def admits (p : MemParams) (a : Word) (n : Nat) : Bool :=
  (!p.alignedOnly || a.toNat % n == 0) && (List.range n).all fun k => admitsByte p (byteAddr a k)

/-- MemRead(addr, 4): the call read32(addr), none where it is not admitted (R51, R54). -/
def State.memRead (s : State) (a : Word) : Option Word :=
  if admits s.params.mem a 4 then some (s.mem.read32 s.params.mem.order a) else none

/-- MemWrite(addr, n, v): the call write32(addr, v, 8n), none where it is not admitted; a rejected write changes no
byte (R52, R54, R68). -/
def State.memWrite (s : State) (a v : Word) (w : Width) : Option State :=
  if admits s.params.mem a w.bytes then some { s with mem := s.mem.write32 s.params.mem.order a v w } else none

/-! ## The shared shapes of loads and stores (spec/46_i_loadstore.md R240, R241) -/

/-- A load: one read32 at the unmodified ea, its word extended into rt (R241). -/
def State.loadTo (s : State) (rt : Reg) (ea : Word) (extend : Word → Word) : Host.Outcome State Fault Refusal :=
  match s.memRead ea with
  | some v => .next ((s.emit (.load ea v)).writeGPR rt (extend v))
  | none => .fault (.dataNotAdmitted ea)

/-- A store: one write32 and no read (R52, R53). -/
def State.storeTo (s : State) (ea value : Word) (w : Width) : Host.Outcome State Fault Refusal :=
  match s.memWrite ea value w with
  | some t => .next (t.emit (.store ea value w))
  | none => .fault (.dataNotAdmitted ea)

end Sys2Proof.Machine
end

