-- ==== Sys2Proof/Machine/Operands.lean ====
section
/-! DEFINITION. The operand forms (spec/30_encoding.md R86 to R88). -/

namespace Sys2Proof.Machine

/-- simm: the immediate sign-extended to 32 bits (R81, R86). -/
def simm (imm : BitVec 16) : Word := imm.signExtend 32

/-- zimm: the immediate zero-extended to 32 bits (R81, R86). -/
def zimm (imm : BitVec 16) : Word := imm.zeroExtend 32

/-- lui's operand: the immediate in the high half, the low half zero (R86). -/
def immHigh (imm : BitVec 16) : Word := imm ++ (0 : BitVec 16)

/-- The immediate shift amount, 0 to 31 (R88). -/
def immAmount (shamt : BitVec 5) : Nat := shamt.toNat

/-- The variable shift amount: the low five bits of the register's value (R88). -/
def regAmount (v : Word) : Nat := (v.extractLsb' 0 5).toNat

/-- The effective address of a load or store: base plus signed displacement (R88, 46_i_loadstore.md R240). -/
def State.effAddr (s : State) (rs : Reg) (imm : BitVec 16) : Word := s.readGPR rs + simm imm

/-- The branch target: PC(current) + 4 + (simm << 2) (R87, 44_i_branch.md R200). -/
def State.branchTarget (s : State) (imm : BitVec 16) : Word := s.cur.pc + 4 + (simm imm <<< 2)

/-- The jump target: the top four bits of PC(current), the field, two zeros (R87, 47_j_jump.md R260). -/
def State.jumpTarget (s : State) (target : BitVec 26) : Word :=
  (s.cur.pc &&& 0xF0000000) ||| (target.zeroExtend 32 <<< 2)

/-- The low byte of a word, sign-extended (46_i_loadstore.md R242). -/
def signByte (v : Word) : Word := (v.extractLsb' 0 8).signExtend 32

/-- The low halfword of a word, sign-extended (R243). -/
def signHalf (v : Word) : Word := (v.extractLsb' 0 16).signExtend 32

/-- The low byte of a word, zero-extended (R245; R247 for the value a byte store passes). -/
def zeroByte (v : Word) : Word := (v.extractLsb' 0 8).zeroExtend 32

/-- The low halfword of a word, zero-extended (R246; R248 for the value a halfword store passes). -/
def zeroHalf (v : Word) : Word := (v.extractLsb' 0 16).zeroExtend 32

/-- The whole word (R244). -/
def wholeWord (v : Word) : Word := v

end Sys2Proof.Machine
end

