-- ==== Sys2Proof/Machine/Flags.lean ====
section
/-! DEFINITION. The core has no flags and no condition codes (spec/10_state.md R26): overflow is recorded nowhere and
branches compare registers directly. What stands here are the comparisons that branches and set-on-less-than make. -/

namespace Sys2Proof.Machine

/-- s32(v) <= 0 (44_i_branch.md R203). -/
def isLeZero (v : Word) : Bool := decide (v.toInt ≤ 0)

/-- s32(v) > 0 (R204). -/
def isGtZero (v : Word) : Bool := decide (0 < v.toInt)

/-- s32(v) < 0 (R205, R207). -/
def isLtZero (v : Word) : Bool := decide (v.toInt < 0)

/-- s32(v) >= 0 (R206, R208). -/
def isGeZero (v : Word) : Bool := decide (0 ≤ v.toInt)

/-- 1 or 0, as set-on-less-than writes it (45_i_alu.md R222: exactly 0x00000000 or 0x00000001). -/
def boolWord (b : Bool) : Word := if b then 1 else 0

/-- The signed comparison (R222, 48_r_logic_ext.md R274). -/
def setLessSigned (a b : Word) : Word := boolWord (decide (a.toInt < b.toInt))

/-- The unsigned comparison (R223, R275). -/
def setLessUnsigned (a b : Word) : Word := boolWord (decide (a.toNat < b.toNat))

end Sys2Proof.Machine
end

