-- ==== Sys2Proof/Machine/Alu.lean ====
section
/-! DEFINITION. R-format arithmetic and shifts (spec/41_r_alu.md). -/

namespace Sys2Proof.Machine

/-- R140: add wraps modulo 2^32 and traps on nothing. -/
def execAdd (rd rs rt : Reg) (s : State) : Host.Outcome State Fault Refusal :=
  .next (s.writeGPR rd (s.readGPR rs + s.readGPR rt))

/-- R141: bit for bit the same as add. -/
def execAddu (rd rs rt : Reg) (s : State) : Host.Outcome State Fault Refusal :=
  .next (s.writeGPR rd (s.readGPR rs + s.readGPR rt))

/-- R142: sub wraps modulo 2^32 and traps on nothing. -/
def execSub (rd rs rt : Reg) (s : State) : Host.Outcome State Fault Refusal :=
  .next (s.writeGPR rd (s.readGPR rs - s.readGPR rt))

/-- R143: bit for bit the same as sub. -/
def execSubu (rd rs rt : Reg) (s : State) : Host.Outcome State Fault Refusal :=
  .next (s.writeGPR rd (s.readGPR rs - s.readGPR rt))

/-- R144: zeros come in at the right. -/
def execSll (rd rt : Reg) (shamt : BitVec 5) (s : State) : Host.Outcome State Fault Refusal :=
  .next (s.writeGPR rd (s.readGPR rt <<< immAmount shamt))

/-- R145: zeros come in at the left. -/
def execSrl (rd rt : Reg) (shamt : BitVec 5) (s : State) : Host.Outcome State Fault Refusal :=
  .next (s.writeGPR rd (s.readGPR rt >>> immAmount shamt))

/-- R146: copies of bit 31 come in at the left. -/
def execSra (rd rt : Reg) (shamt : BitVec 5) (s : State) : Host.Outcome State Fault Refusal :=
  .next (s.writeGPR rd ((s.readGPR rt).sshiftRight (immAmount shamt)))

/-- R147: the amount is the low five bits of rs. -/
def execSllv (rd rt rs : Reg) (s : State) : Host.Outcome State Fault Refusal :=
  .next (s.writeGPR rd (s.readGPR rt <<< regAmount (s.readGPR rs)))

/-- R148: the amount is the low five bits of rs. -/
def execSrlv (rd rt rs : Reg) (s : State) : Host.Outcome State Fault Refusal :=
  .next (s.writeGPR rd (s.readGPR rt >>> regAmount (s.readGPR rs)))

/-- R149: the amount is the low five bits of rs. -/
def execSrav (rd rt rs : Reg) (s : State) : Host.Outcome State Fault Refusal :=
  .next (s.writeGPR rd ((s.readGPR rt).sshiftRight (regAmount (s.readGPR rs))))

end Sys2Proof.Machine
end

