-- ==== Sys2Proof/Machine/Branch.lean ====
section
/-! DEFINITION. Conditional branches (spec/44_i_branch.md). -/

namespace Sys2Proof.Machine

/-- R200: a taken branch replaces the fallthrough by the target; one not taken leaves the fallthrough. -/
def State.branchIf (s : State) (cond : Bool) (imm : BitVec 16) : State :=
  if cond then s.writePC (s.branchTarget imm) else s

/-- The link of bltzal and bgezal: written when taken, and when not taken only under REGIMM_LINK_ALWAYS (R207, R208,
00_scope.md R12). -/
def State.linkIf (s : State) (cond : Bool) : State :=
  if cond || s.params.linkAlways then s.writeGPR linkReg s.pcPlus4 else s

/-- R201. -/
def execBeq (rs rt : Reg) (imm : BitVec 16) (s : State) : Host.Outcome State Fault Refusal :=
  .next (s.branchIf (s.readGPR rs == s.readGPR rt) imm)

/-- R202. -/
def execBne (rs rt : Reg) (imm : BitVec 16) (s : State) : Host.Outcome State Fault Refusal :=
  .next (s.branchIf (s.readGPR rs != s.readGPR rt) imm)

/-- R203. -/
def execBlez (rs : Reg) (imm : BitVec 16) (s : State) : Host.Outcome State Fault Refusal :=
  .next (s.branchIf (isLeZero (s.readGPR rs)) imm)

/-- R204. -/
def execBgtz (rs : Reg) (imm : BitVec 16) (s : State) : Host.Outcome State Fault Refusal :=
  .next (s.branchIf (isGtZero (s.readGPR rs)) imm)

/-- R205. -/
def execBltz (rs : Reg) (imm : BitVec 16) (s : State) : Host.Outcome State Fault Refusal :=
  .next (s.branchIf (isLtZero (s.readGPR rs)) imm)

/-- R206. -/
def execBgez (rs : Reg) (imm : BitVec 16) (s : State) : Host.Outcome State Fault Refusal :=
  .next (s.branchIf (isGeZero (s.readGPR rs)) imm)

/-- R207: the condition reads the old r31 when rs = 31. -/
def execBltzal (rs : Reg) (imm : BitVec 16) (s : State) : Host.Outcome State Fault Refusal :=
  let taken := isLtZero (s.readGPR rs)
  .next ((s.linkIf taken).branchIf taken imm)

/-- R208: the condition reads the old r31 when rs = 31. -/
def execBgezal (rs : Reg) (imm : BitVec 16) (s : State) : Host.Outcome State Fault Refusal :=
  let taken := isGeZero (s.readGPR rs)
  .next ((s.linkIf taken).branchIf taken imm)

end Sys2Proof.Machine
end

