-- ==== Sys2Proof/Machine/Control.lean ====
section
/-! DEFINITION. Register jumps, the system call, and unknown words (spec/43_r_control.md, spec/40_cycle.md R133). -/

namespace Sys2Proof.Machine

/-- R180: the target replaces the fallthrough; its alignment is not checked. -/
def execJr (rs : Reg) (s : State) : Host.Outcome State Fault Refusal := .next (s.writePC (s.readGPR rs))

/-- R181: the target is read from current, so rd = rs jumps to the old value; the link is PC(current) + 4. -/
def execJalr (rd rs : Reg) (s : State) : Host.Outcome State Fault Refusal :=
  .next ((s.writePC (s.readGPR rs)).writeGPR rd s.pcPlus4)

/-- R182: the exit code clears the run flag; every other number is a no-op with no diagnostic. -/
def execSyscall (s : State) : Host.Outcome State Fault Refusal :=
  if s.readGPR s.params.syscallReg = s.params.syscallExit then .next s.emitRunClear else .next s

/-- An unknown word: one diagnostic and no other effect; the fallthrough stands (40_cycle.md R133, 43_r_control.md R184,
44_i_branch.md R209, 60_exceptions.md R301). -/
def execUnknown (k : UnknownKind) (w : Word) (s : State) : Host.Outcome State Fault Refusal :=
  .next (s.emitDiag { kind := k, pc := s.cur.pc, word := w })

end Sys2Proof.Machine
end

