-- ==== Sys2Proof/Machine/HiLo.lean ====
section
/-! DEFINITION. Multiply, divide and the HI/LO registers (spec/42_r_hilo.md). -/

namespace Sys2Proof.Machine

/-- The exact signed product modulo 2^64 (R160). -/
def signedProduct (a b : Word) : BitVec 64 := BitVec.ofInt 64 (a.toInt * b.toInt)

/-- The exact unsigned product, below 2^64 (R161). -/
def unsignedProduct (a b : Word) : BitVec 64 := BitVec.ofNat 64 (a.toNat * b.toNat)

/-- Bits 63:32 of a product. -/
def highWord (p : BitVec 64) : Word := p.extractLsb' 32 32

/-- Bits 31:0 of a product. -/
def lowWord (p : BitVec 64) : Word := p.extractLsb' 0 32

/-- The signed quotient, truncated toward zero (R162; 92_eei_decisions.md D9, log 18). -/
def signedQuotient (a b : Word) : Int := a.toInt.tdiv b.toInt

/-- The signed remainder r = a - q * b (R162). -/
def signedRemainder (a b : Word) : Int := a.toInt - signedQuotient a b * b.toInt

/-- The one signed division whose quotient does not fit in 32 bits (R162, 00_scope.md R13). -/
def divOverflows (a b : Word) : Bool := a == 0x80000000 && b == 0xFFFFFFFF

/-- R160: HI and LO get the two halves of the signed product. -/
def execMult (rs rt : Reg) (s : State) : Host.Outcome State Fault Refusal :=
  let p := signedProduct (s.readGPR rs) (s.readGPR rt)
  .next (s.writeHiLo (highWord p) (lowWord p))

/-- R161: HI and LO get the two halves of the unsigned product. -/
def execMultu (rs rt : Reg) (s : State) : Host.Outcome State Fault Refusal :=
  let p := unsignedProduct (s.readGPR rs) (s.readGPR rt)
  .next (s.writeHiLo (highWord p) (lowWord p))

/-- R162: a zero divisor is a silent no-op (R302), the overflowing quotient gives DIV_OVF, and otherwise LO gets the
quotient and HI the remainder. -/
def execDiv (rs rt : Reg) (s : State) : Host.Outcome State Fault Refusal :=
  let a := s.readGPR rs
  let b := s.readGPR rt
  if b = 0 then .next s
  else if divOverflows a b then .next (s.writeHiLo s.params.divOvfHi s.params.divOvfLo)
  else .next (s.writeHiLo (BitVec.ofInt 32 (signedRemainder a b)) (BitVec.ofInt 32 (signedQuotient a b)))

/-- R163: a zero divisor is a silent no-op (R302), otherwise LO gets the quotient and HI the remainder. -/
def execDivu (rs rt : Reg) (s : State) : Host.Outcome State Fault Refusal :=
  let a := s.readGPR rs
  let b := s.readGPR rt
  if b = 0 then .next s
  else .next (s.writeHiLo (BitVec.ofNat 32 (a.toNat % b.toNat)) (BitVec.ofNat 32 (a.toNat / b.toNat)))

/-- R164: the current HI. -/
def execMfhi (rd : Reg) (s : State) : Host.Outcome State Fault Refusal := .next (s.writeGPR rd s.cur.hi)

/-- R165: the current LO. -/
def execMflo (rd : Reg) (s : State) : Host.Outcome State Fault Refusal := .next (s.writeGPR rd s.cur.lo)

/-- R166: LO is unchanged. -/
def execMthi (rs : Reg) (s : State) : Host.Outcome State Fault Refusal := .next (s.writeHI (s.readGPR rs))

/-- R167: HI is unchanged. -/
def execMtlo (rs : Reg) (s : State) : Host.Outcome State Fault Refusal := .next (s.writeLO (s.readGPR rs))

end Sys2Proof.Machine
end

