-- ==== Sys2Proof/Machine/ImmAlu.lean ====
section
/-! DEFINITION. Immediate arithmetic and logic (spec/45_i_alu.md). The destination is rt. -/

namespace Sys2Proof.Machine

/-- R220: addi wraps modulo 2^32 and traps on nothing. -/
def execAddi (rt rs : Reg) (imm : BitVec 16) (s : State) : Host.Outcome State Fault Refusal :=
  .next (s.writeGPR rt (s.readGPR rs + simm imm))

/-- R221: bit for bit the same as addi. -/
def execAddiu (rt rs : Reg) (imm : BitVec 16) (s : State) : Host.Outcome State Fault Refusal :=
  .next (s.writeGPR rt (s.readGPR rs + simm imm))

/-- R222: signed, against the sign-extended immediate. -/
def execSlti (rt rs : Reg) (imm : BitVec 16) (s : State) : Host.Outcome State Fault Refusal :=
  .next (s.writeGPR rt (setLessSigned (s.readGPR rs) (simm imm)))

/-- R223: unsigned, against the sign-extended immediate. -/
def execSltiu (rt rs : Reg) (imm : BitVec 16) (s : State) : Host.Outcome State Fault Refusal :=
  .next (s.writeGPR rt (setLessUnsigned (s.readGPR rs) (simm imm)))

/-- R224: the immediate is zero-extended. -/
def execAndi (rt rs : Reg) (imm : BitVec 16) (s : State) : Host.Outcome State Fault Refusal :=
  .next (s.writeGPR rt (s.readGPR rs &&& zimm imm))

/-- R225: the immediate is zero-extended. -/
def execOri (rt rs : Reg) (imm : BitVec 16) (s : State) : Host.Outcome State Fault Refusal :=
  .next (s.writeGPR rt (s.readGPR rs ||| zimm imm))

/-- R226: the immediate is zero-extended. -/
def execXori (rt rs : Reg) (imm : BitVec 16) (s : State) : Host.Outcome State Fault Refusal :=
  .next (s.writeGPR rt (s.readGPR rs ^^^ zimm imm))

/-- R227: rs is not read. -/
def execLui (rt : Reg) (imm : BitVec 16) (s : State) : Host.Outcome State Fault Refusal :=
  .next (s.writeGPR rt (immHigh imm))

end Sys2Proof.Machine
end

