-- ==== Sys2Proof/Machine/Jump.lean ====
section
/-! DEFINITION. J-format jumps (spec/47_j_jump.md). -/

namespace Sys2Proof.Machine

/-- R260: the high four bits come from PC(current), not from PC(current) + 4. -/
def execJ (target : BitVec 26) (s : State) : Host.Outcome State Fault Refusal :=
  .next (s.writePC (s.jumpTarget target))

/-- R261: the link is PC(current) + 4. -/
def execJal (target : BitVec 26) (s : State) : Host.Outcome State Fault Refusal :=
  .next ((s.writeGPR linkReg s.pcPlus4).writePC (s.jumpTarget target))

end Sys2Proof.Machine
end

