-- ==== Sys2Proof/Machine/LoadStore.lean ====
section
/-! DEFINITION. Loads and stores (spec/46_i_loadstore.md). -/

namespace Sys2Proof.Machine

/-- R242. -/
def execLb (rt rs : Reg) (imm : BitVec 16) (s : State) : Host.Outcome State Fault Refusal :=
  s.loadTo rt (s.effAddr rs imm) signByte

/-- R243. -/
def execLh (rt rs : Reg) (imm : BitVec 16) (s : State) : Host.Outcome State Fault Refusal :=
  s.loadTo rt (s.effAddr rs imm) signHalf

/-- R244. -/
def execLw (rt rs : Reg) (imm : BitVec 16) (s : State) : Host.Outcome State Fault Refusal :=
  s.loadTo rt (s.effAddr rs imm) wholeWord

/-- R245. -/
def execLbu (rt rs : Reg) (imm : BitVec 16) (s : State) : Host.Outcome State Fault Refusal :=
  s.loadTo rt (s.effAddr rs imm) zeroByte

/-- R246. -/
def execLhu (rt rs : Reg) (imm : BitVec 16) (s : State) : Host.Outcome State Fault Refusal :=
  s.loadTo rt (s.effAddr rs imm) zeroHalf

/-- R247: one byte changes. -/
def execSb (rt rs : Reg) (imm : BitVec 16) (s : State) : Host.Outcome State Fault Refusal :=
  s.storeTo (s.effAddr rs imm) (zeroByte (s.readGPR rt)) .b8

/-- R248: two bytes change. -/
def execSh (rt rs : Reg) (imm : BitVec 16) (s : State) : Host.Outcome State Fault Refusal :=
  s.storeTo (s.effAddr rs imm) (zeroHalf (s.readGPR rt)) .b16

/-- R249: four bytes change. -/
def execSw (rt rs : Reg) (imm : BitVec 16) (s : State) : Host.Outcome State Fault Refusal :=
  s.storeTo (s.effAddr rs imm) (s.readGPR rt) .b32

end Sys2Proof.Machine
end

