-- ==== Sys2Proof/Machine/LogicExt.lean ====
section
/-! DEFINITION. The contested R-format logic and compare operations (spec/48_r_logic_ext.md). Whether a word is one of
them is decided at decode, by R_LOGIC (spec/30_encoding.md R94); here is what they do when they are (log 20, log 23). -/

namespace Sys2Proof.Machine

/-- R270. -/
def execAnd (rd rs rt : Reg) (s : State) : Host.Outcome State Fault Refusal :=
  .next (s.writeGPR rd (s.readGPR rs &&& s.readGPR rt))

/-- R271. -/
def execOr (rd rs rt : Reg) (s : State) : Host.Outcome State Fault Refusal :=
  .next (s.writeGPR rd (s.readGPR rs ||| s.readGPR rt))

/-- R272. -/
def execXor (rd rs rt : Reg) (s : State) : Host.Outcome State Fault Refusal :=
  .next (s.writeGPR rd (s.readGPR rs ^^^ s.readGPR rt))

/-- R273. -/
def execNor (rd rs rt : Reg) (s : State) : Host.Outcome State Fault Refusal :=
  .next (s.writeGPR rd (~~~(s.readGPR rs ||| s.readGPR rt)))

/-- R274. -/
def execSlt (rd rs rt : Reg) (s : State) : Host.Outcome State Fault Refusal :=
  .next (s.writeGPR rd (setLessSigned (s.readGPR rs) (s.readGPR rt)))

/-- R275. -/
def execSltu (rd rs rt : Reg) (s : State) : Host.Outcome State Fault Refusal :=
  .next (s.writeGPR rd (setLessUnsigned (s.readGPR rs) (s.readGPR rt)))

end Sys2Proof.Machine
end

