-- ==== Sys2Proof/Machine/Cycle.lean ====
section
/-! DEFINITION. One invocation of the core, from fetch to the write of next (spec/40_cycle.md R122 to R125), and the
driver's cycle around it (spec/70_reset_and_hazards.md R334). -/

namespace Sys2Proof.Machine

/-- The start of an invocation: next equals current (10_state.md R29), and no event yet. -/
def State.begin (s : State) : State := { s with nxt := s.cur, events := [] }

/-- The fetch: read32(PC(current)) (R122). -/
def State.fetch (s : State) : Option Word := s.memRead s.cur.pc

/-- After a fetch that answered w: its event, and the fallthrough as the first write (R123). -/
def State.fetched (s : State) (w : Word) : State := (s.begin.emit (.fetch s.cur.pc w)).writePC s.pcPlus4

/-- The effect of a fetched word on the state the fetch left (R124, R304). -/
def execWord (w : Word) (s : State) : Host.Outcome State Fault Refusal :=
  match decode s.params.rLogic w with
  | .instr i => exec i s
  | .unknown k => execUnknown k w s
  | .contested => .refused (.contested w)

/-- One invocation, before the commit (R124). It never reads nxt and never reads run (R127). -/
def invoke (s : State) : Host.Outcome State Fault Refusal :=
  match s.fetch with
  | some w => execWord w (s.fetched w)
  | none => .fault (.fetchNotAdmitted s.cur.pc)

/-- The driver's commit: next copied into current, one more committed invocation counted (10_state.md R29, R341). -/
def State.commit (s : State) : State := { s with cur := s.nxt, cycles := s.cycles + 1 }

/-- The driver's cycle (R334): invoke the core while the run flag is set, and commit what completes. -/
def driverCycle (s : State) : Host.Outcome State Fault Refusal :=
  if s.run then
    match invoke s with
    | .next t => .next t.commit
    | .fault r => .fault r
    | .refused r => .refused r
  else .fault .halted

/-- A word laid at the PC in the collaborator's byte order, admitted or not. -/
def State.placeWord (s : State) (w : Word) : State :=
  { s with mem := s.mem.write32 s.params.mem.order s.cur.pc w .b32 }

/-- Memory parameters under which the fetch at an address is admitted: unchanged where it is already. -/
def admitFetch (p : MemParams) (pc : Word) : MemParams :=
  if admits p pc 4 then p else { p with alignedOnly := false, regions := [Region.everything] }

/-- The run flag set and the fetch admitted, so that the next cycle runs. -/
def State.readyToFetch (s : State) : State :=
  { s with run := true, params := { s.params with mem := admitFetch s.params.mem s.cur.pc } }

end Sys2Proof.Machine
end

