-- ==== Sys2Proof/Machine/Ports.lean ====
section
/-! DEFINITION. The block's output ports (spec/40_cycle.md R121), read off the state an invocation leaves. A view: no
step reads it. -/

namespace Sys2Proof.Machine

/-- The outputs of one invocation (R121); an enable that is 0 is none. -/
structure Ports where
  /-- nxt_gpr, nxt_pc, nxt_hi, nxt_lo. -/
  nxt : Snapshot
  /-- if_addr. -/
  ifAddr : Option Word
  /-- dr_en and dr_addr. -/
  dataRead : Option Word
  /-- dw_en, dw_addr, dw_data and dw_width. -/
  dataWrite : Option (Word × Word × Width)
  /-- run_clear. -/
  runClear : Bool
  /-- diag_valid, diag_kind, diag_pc and diag_word. -/
  diag : Option (BitVec 2 × Word × Word)
deriving DecidableEq, Repr

/-- The address of a fetch event. -/
def Event.fetchAddr : Event → Option Word
  | .fetch a _ => some a
  | .load _ _ | .store _ _ _ | .diag _ | .runClear => none

/-- The address of a load event. -/
def Event.loadAddr : Event → Option Word
  | .load a _ => some a
  | .fetch _ _ | .store _ _ _ | .diag _ | .runClear => none

/-- The request of a store event. -/
def Event.storeRequest : Event → Option (Word × Word × Width)
  | .store a v w => some (a, v, w)
  | .fetch _ _ | .load _ _ | .diag _ | .runClear => none

/-- The code, PC and word of a diagnostic event. -/
def Event.diagnostic : Event → Option (BitVec 2 × Word × Word)
  | .diag d => some (d.kind.code, d.pc, d.word)
  | .fetch _ _ | .load _ _ | .store _ _ _ | .runClear => none

/-- The ports after an invocation. -/
def State.ports (s : State) : Ports :=
  { nxt := s.nxt
    ifAddr := s.events.findSome? Event.fetchAddr
    dataRead := s.events.findSome? Event.loadAddr
    dataWrite := s.events.findSome? Event.storeRequest
    runClear := s.events.contains .runClear
    diag := s.events.findSome? Event.diagnostic }

end Sys2Proof.Machine
end

