-- ==== Sys2Proof/Machine/Step.lean ====
section
/-! DEFINITION. The machine's step: one cycle of the driver, which invokes the core once and commits
(spec/70_reset_and_hazards.md R334). -/

namespace Sys2Proof.Machine

/-- One step (log 13). -/
def step (s : State) : Host.Outcome State Fault Refusal := driverCycle s

/-- The state with an instruction of nbits bits stored where the next fetch reads it, the run flag set and the fetch
admitted (log 17). -/
def State.withFetchWord (s : State) (nbits w : Nat) : State :=
  (s.placeWord (BitVec.ofNat 32 (w % 2 ^ nbits))).readyToFetch

end Sys2Proof.Machine
end

