-- ==== Sys2Proof/Safety.lean ====
section
/-! DEFINITION. The terms claims use: what an invocation runs, what an instruction may change, the machine's invariant,
and what counts as a safe run (spec/40_cycle.md R132, spec/70_reset_and_hazards.md R334). -/

namespace Sys2Proof

/-! ## What an instruction writes, jumps to and asks of memory, as tables of the spec say it -/

/-- The one general register an instruction may write (10_state.md R22). -/
def Instr.dest : Instr → Option Reg
  | .add rd _ _ | .addu rd _ _ | .sub rd _ _ | .subu rd _ _ | .sll rd _ _ | .srl rd _ _ | .sra rd _ _
  | .sllv rd _ _ | .srlv rd _ _ | .srav rd _ _ | .mfhi rd | .mflo rd | .jalr rd _ | .and rd _ _
  | .or rd _ _ | .xor rd _ _ | .nor rd _ _ | .slt rd _ _ | .sltu rd _ _ => some rd
  | .addi rt _ _ | .addiu rt _ _ | .slti rt _ _ | .sltiu rt _ _ | .andi rt _ _ | .ori rt _ _ | .xori rt _ _
  | .lui rt _ | .lb rt _ _ | .lh rt _ _ | .lw rt _ _ | .lbu rt _ _ | .lhu rt _ _ => some rt
  | .jal _ | .bltzal _ _ | .bgezal _ _ => some linkReg
  | .mult _ _ | .multu _ _ | .div _ _ | .divu _ _ | .mthi _ | .mtlo _ | .jr _ | .syscall | .beq _ _ _
  | .bne _ _ _ | .blez _ _ | .bgtz _ _ | .bltz _ _ | .bgez _ _ | .sb _ _ _ | .sh _ _ _ | .sw _ _ _ | .j _ => none

/-- The instructions that may write HI (10_state.md R25). -/
def Instr.writesHi : Instr → Bool
  | .mult _ _ | .multu _ _ | .div _ _ | .divu _ _ | .mthi _ => true
  | .add _ _ _ | .addu _ _ _ | .sub _ _ _ | .subu _ _ _ | .sll _ _ _ | .srl _ _ _ | .sra _ _ _
  | .sllv _ _ _ | .srlv _ _ _ | .srav _ _ _ | .mfhi _ | .mflo _ | .mtlo _ | .jr _ | .jalr _ _ | .syscall
  | .beq _ _ _ | .bne _ _ _ | .blez _ _ | .bgtz _ _ | .bltz _ _ | .bgez _ _ | .bltzal _ _ | .bgezal _ _
  | .addi _ _ _ | .addiu _ _ _ | .slti _ _ _ | .sltiu _ _ _ | .andi _ _ _ | .ori _ _ _ | .xori _ _ _
  | .lui _ _ | .lb _ _ _ | .lh _ _ _ | .lw _ _ _ | .lbu _ _ _ | .lhu _ _ _ | .sb _ _ _ | .sh _ _ _
  | .sw _ _ _ | .j _ | .jal _ | .and _ _ _ | .or _ _ _ | .xor _ _ _ | .nor _ _ _ | .slt _ _ _ | .sltu _ _ _ =>
    false

/-- The instructions that may write LO (10_state.md R25). -/
def Instr.writesLo : Instr → Bool
  | .mult _ _ | .multu _ _ | .div _ _ | .divu _ _ | .mtlo _ => true
  | .add _ _ _ | .addu _ _ _ | .sub _ _ _ | .subu _ _ _ | .sll _ _ _ | .srl _ _ _ | .sra _ _ _
  | .sllv _ _ _ | .srlv _ _ _ | .srav _ _ _ | .mfhi _ | .mflo _ | .mthi _ | .jr _ | .jalr _ _ | .syscall
  | .beq _ _ _ | .bne _ _ _ | .blez _ _ | .bgtz _ _ | .bltz _ _ | .bgez _ _ | .bltzal _ _ | .bgezal _ _
  | .addi _ _ _ | .addiu _ _ _ | .slti _ _ _ | .sltiu _ _ _ | .andi _ _ _ | .ori _ _ _ | .xori _ _ _
  | .lui _ _ | .lb _ _ _ | .lh _ _ _ | .lw _ _ _ | .lbu _ _ _ | .lhu _ _ _ | .sb _ _ _ | .sh _ _ _
  | .sw _ _ _ | .j _ | .jal _ | .and _ _ _ | .or _ _ _ | .xor _ _ _ | .nor _ _ _ | .slt _ _ _ | .sltu _ _ _ =>
    false

namespace Machine

/-- PC(next) of an instruction that completes from s (10_state.md R24, 47_j_jump.md R262). -/
def nextPC (s : State) : Instr → Word
  | .jr rs | .jalr _ rs => s.readGPR rs
  | .j target | .jal target => s.jumpTarget target
  | .beq rs rt imm => if s.readGPR rs = s.readGPR rt then s.branchTarget imm else s.pcPlus4
  | .bne rs rt imm => if s.readGPR rs ≠ s.readGPR rt then s.branchTarget imm else s.pcPlus4
  | .blez rs imm => if (s.readGPR rs).toInt ≤ 0 then s.branchTarget imm else s.pcPlus4
  | .bgtz rs imm => if (s.readGPR rs).toInt > 0 then s.branchTarget imm else s.pcPlus4
  | .bltz rs imm | .bltzal rs imm => if (s.readGPR rs).toInt < 0 then s.branchTarget imm else s.pcPlus4
  | .bgez rs imm | .bgezal rs imm => if (s.readGPR rs).toInt ≥ 0 then s.branchTarget imm else s.pcPlus4
  | .add _ _ _ | .addu _ _ _ | .sub _ _ _ | .subu _ _ _ | .sll _ _ _ | .srl _ _ _ | .sra _ _ _
  | .sllv _ _ _ | .srlv _ _ _ | .srav _ _ _ | .mult _ _ | .multu _ _ | .div _ _ | .divu _ _ | .mfhi _
  | .mflo _ | .mthi _ | .mtlo _ | .syscall | .addi _ _ _ | .addiu _ _ _ | .slti _ _ _ | .sltiu _ _ _
  | .andi _ _ _ | .ori _ _ _ | .xori _ _ _ | .lui _ _ | .lb _ _ _ | .lh _ _ _ | .lw _ _ _ | .lbu _ _ _
  | .lhu _ _ _ | .sb _ _ _ | .sh _ _ _ | .sw _ _ _ | .and _ _ _ | .or _ _ _ | .xor _ _ _ | .nor _ _ _
  | .slt _ _ _ | .sltu _ _ _ => s.pcPlus4

/-- The data request of an instruction run from s: its address and its width in bytes (20_memory.md R53, R58). -/
def dataRequest (s : State) : Instr → Option (Word × Nat)
  | .lb _ rs imm | .lh _ rs imm | .lw _ rs imm | .lbu _ rs imm | .lhu _ rs imm => some (s.effAddr rs imm, 4)
  | .sb _ rs imm => some (s.effAddr rs imm, 1)
  | .sh _ rs imm => some (s.effAddr rs imm, 2)
  | .sw _ rs imm => some (s.effAddr rs imm, 4)
  | .add _ _ _ | .addu _ _ _ | .sub _ _ _ | .subu _ _ _ | .sll _ _ _ | .srl _ _ _ | .sra _ _ _
  | .sllv _ _ _ | .srlv _ _ _ | .srav _ _ _ | .mult _ _ | .multu _ _ | .div _ _ | .divu _ _ | .mfhi _
  | .mflo _ | .mthi _ | .mtlo _ | .jr _ | .jalr _ _ | .syscall | .beq _ _ _ | .bne _ _ _ | .blez _ _
  | .bgtz _ _ | .bltz _ _ | .bgez _ _ | .bltzal _ _ | .bgezal _ _ | .addi _ _ _ | .addiu _ _ _
  | .slti _ _ _ | .sltiu _ _ _ | .andi _ _ _ | .ori _ _ _ | .xori _ _ _ | .lui _ _ | .j _ | .jal _
  | .and _ _ _ | .or _ _ _ | .xor _ _ _ | .nor _ _ _ | .slt _ _ _ | .sltu _ _ _ => none

/-- The data access events of an instruction that completes from s: one read for a load, one write for a store, none
for every other (20_memory.md R53, R58). -/
def dataEvents (s : State) : Instr → List Event
  | .lb _ rs imm | .lh _ rs imm | .lw _ rs imm | .lbu _ rs imm | .lhu _ rs imm =>
    [.load (s.effAddr rs imm) (s.mem.read32 s.params.mem.order (s.effAddr rs imm))]
  | .sb rt rs imm => [.store (s.effAddr rs imm) (BitVec.ofNat 32 ((s.readGPR rt).toNat % 2 ^ 8)) .b8]
  | .sh rt rs imm => [.store (s.effAddr rs imm) (BitVec.ofNat 32 ((s.readGPR rt).toNat % 2 ^ 16)) .b16]
  | .sw rt rs imm => [.store (s.effAddr rs imm) (s.readGPR rt) .b32]
  | .add _ _ _ | .addu _ _ _ | .sub _ _ _ | .subu _ _ _ | .sll _ _ _ | .srl _ _ _ | .sra _ _ _
  | .sllv _ _ _ | .srlv _ _ _ | .srav _ _ _ | .mult _ _ | .multu _ _ | .div _ _ | .divu _ _ | .mfhi _
  | .mflo _ | .mthi _ | .mtlo _ | .jr _ | .jalr _ _ | .syscall | .beq _ _ _ | .bne _ _ _ | .blez _ _
  | .bgtz _ _ | .bltz _ _ | .bgez _ _ | .bltzal _ _ | .bgezal _ _ | .addi _ _ _ | .addiu _ _ _
  | .slti _ _ _ | .sltiu _ _ _ | .andi _ _ _ | .ori _ _ _ | .xori _ _ _ | .lui _ _ | .j _ | .jal _
  | .and _ _ _ | .or _ _ _ | .xor _ _ _ | .nor _ _ _ | .slt _ _ _ | .sltu _ _ _ => []

/-- Whether an event is a memory call (40_cycle.md R125). -/
def Event.isMemory : Event → Bool
  | .fetch _ _ | .load _ _ | .store _ _ _ => true
  | .diag _ | .runClear => false

/-! ## What an invocation runs -/

/-- The next invocation takes place and fetches the word w. -/
def State.fetches (s : State) (w : Word) : Prop :=
  s.run = true ∧ admits s.params.mem s.cur.pc 4 = true ∧ s.mem.read32 s.params.mem.order s.cur.pc = w

/-- The next invocation fetches a word that decodes to the instruction i. -/
def State.runsInstr (s : State) (i : Instr) : Prop := ∃ w, s.fetches w ∧ decode s.params.rLogic w = .instr i

/-! ## Frames, from the state s an instruction is run on to the state t it leaves -/

/-- Every byte of memory reads as before. -/
def MemSame (s t : State) : Prop := ∀ a, t.mem.read a = s.mem.read a

/-- The current snapshot, the run flag, the outputs, the count and the parameters are as before. -/
def OutsideSame (s t : State) : Prop :=
  t.cur = s.cur ∧ t.run = s.run ∧ t.events = s.events ∧ t.diags = s.diags ∧ t.cycles = s.cycles ∧ t.params = s.params

/-- Every general register of next is as before. -/
def GprSame (s t : State) : Prop := ∀ r, t.nxt.gpr.get r = s.nxt.gpr.get r

/-- HI and LO of next are as before. -/
def HiLoSame (s t : State) : Prop := t.nxt.hi = s.nxt.hi ∧ t.nxt.lo = s.nxt.lo

/-- Of the general registers of next, d holds v and every other is as before; where register 0 is hardwired and is d,
none changes (40_cycle.md R128). -/
def GprWritten (s t : State) (d : Reg) (v : Word) : Prop :=
  ∀ r, t.nxt.gpr.get r = if r = d ∧ ¬(s.params.hardwireR0 = true ∧ d = 0) then v else s.nxt.gpr.get r

/-- Register d of next holds v, and that is the whole effect: PC(next), HI, LO, memory, outputs are as before. -/
def OnlyGpr (s t : State) (d : Reg) (v : Word) : Prop :=
  GprWritten s t d v ∧ t.nxt.pc = s.nxt.pc ∧ HiLoSame s t ∧ MemSame s t ∧ OutsideSame s t

/-- HI and LO of next hold h and l, and that is the whole effect. -/
def OnlyHiLo (s t : State) (h l : Word) : Prop :=
  t.nxt.hi = h ∧ t.nxt.lo = l ∧ GprSame s t ∧ t.nxt.pc = s.nxt.pc ∧ MemSame s t ∧ OutsideSame s t

/-- PC(next) is v, and that is the whole effect. -/
def OnlyPC (s t : State) (v : Word) : Prop :=
  t.nxt.pc = v ∧ GprSame s t ∧ HiLoSame s t ∧ MemSame s t ∧ OutsideSame s t

/-- Register d of next holds v and PC(next) is p, and that is the whole effect. -/
def OnlyGprAndPC (s t : State) (d : Reg) (v p : Word) : Prop :=
  GprWritten s t d v ∧ t.nxt.pc = p ∧ HiLoSame s t ∧ MemSame s t ∧ OutsideSame s t

/-- A load's whole effect: register d of next holds v, and one read event is added. -/
def OnlyLoaded (s t : State) (d : Reg) (v ea data : Word) : Prop :=
  GprWritten s t d v ∧ t.nxt.pc = s.nxt.pc ∧ HiLoSame s t ∧ MemSame s t ∧ t.cur = s.cur ∧ t.run = s.run ∧
  t.events = s.events ++ [.load ea data] ∧ t.diags = s.diags ∧ t.cycles = s.cycles ∧ t.params = s.params

/-- A store's whole effect: of memory only the n bytes from ea on may change, byte k of them reading as byte k of v in
the collaborator's byte order (little-endian by D14; the big-endian layout is log 9's, DESIGN CHOICE), and one write event
is added; no register changes. -/
def OnlyStored (s t : State) (ea v : Word) (w : Width) : Prop :=
  (∀ k, k < w.bytes → t.mem.read (byteAddr ea k) =
    match s.params.mem.order with
    | .little => v.extractLsb' (8 * k) 8
    | .big => v.extractLsb' (8 * (w.bytes - 1 - k)) 8) ∧
  (∀ a, (∀ k, k < w.bytes → a ≠ byteAddr ea k) → t.mem.read a = s.mem.read a) ∧
  GprSame s t ∧ t.nxt.pc = s.nxt.pc ∧ HiLoSame s t ∧ t.cur = s.cur ∧ t.run = s.run ∧
  t.events = s.events ++ [.store ea v w] ∧ t.diags = s.diags ∧ t.cycles = s.cycles ∧ t.params = s.params

/-! ## The invariant -/

/-- The events one invocation may leave: none yet, or the fetch and then at most one data access, diagnostic or
RunClear (20_memory.md R53, 40_cycle.md R125). -/
def eventsShaped : List Event → Bool
  | [] => true
  | [.fetch _ _] => true
  | [.fetch _ _, .load _ _] => true
  | [.fetch _ _, .store _ _ _] => true
  | [.fetch _ _, .diag _] => true
  | [.fetch _ _, .runClear] => true
  | _ => false

/-- The invariant of the machine between invocations. -/
structure State.Inv (s : State) : Prop where
  /-- Memory keeps its canonical form. -/
  memory : s.mem.wf = true
  /-- Next equals current (10_state.md R29). -/
  snapshots : s.nxt = s.cur
  /-- The events have the shape of one invocation's (R53, R125). -/
  events : eventsShaped s.events = true
  /-- The run flag is clear exactly when the last invocation cleared it (R130: the core never sets it). -/
  runFlag : s.run = false ↔ Event.runClear ∈ s.events
  /-- At most one diagnostic an invocation (R131). -/
  diagnostics : s.diags.length ≤ s.cycles

/-! ## Runs -/

/-- The ends of a run (R132), and a run that has not ended. -/
inductive RunEnd where
  | running (s : State)
  | halted (s : State)
  | stuck (s : State) (r : Fault)
  | refused (s : State) (r : Refusal)
deriving DecidableEq, Repr

/-- At most n cycles of the run of R334: it ends halted after the commit of an invocation that cleared the run flag,
or stuck or refused with the state before the step. -/
def runFor : Nat → State → RunEnd
  | 0, s => .running s
  | n + 1, s =>
    match step s with
    | .next t => if t.run then runFor n t else .halted t
    | .fault r => .stuck s r
    | .refused r => .refused s r

/-- The states a run reaches. -/
inductive Reaches (s : State) : State → Prop where
  | start : Reaches s s
  | step {t u : State} : Reaches s t → Machine.step t = .next u → Reaches s u

/-- A safe run: from every state it reaches the step completes, or the run has halted. -/
def SafeRun (s : State) : Prop :=
  ∀ t, Reaches s t → (∃ u, step t = .next u) ∨ step t = .fault .halted

end Machine

end Sys2Proof
end

