-- ==== Sys2Proof/Certificates/Slice0/Obligations.lean ====
section
/-! DEFINITION. The statements for the provers. Each docstring names the rule of spec/ it formalises. Every statement
about a state holds for every value of the spec's parameters, which stand in State.params (log 1); where one rests on a
decision of the spec or of the model, its docstring says so. -/

open Sys2Proof Sys2Proof.Machine

/-! ## Encoding (spec/30_encoding.md) -/

/-- Words written out from R82 to R84 and R91 to R94 decode to the instructions they stand for, one of every family and
one of each unknown class. The numeric codes other than opcodes 0 to 3 are the spec's choice (D5, log 14). -/
def Obligations.WrittenOutWordsDecode : Prop :=
  decode .refuse (0b000000#6 ++ 0b01000#5 ++ 0b01001#5 ++ 0b01010#5 ++ 0b00000#5 ++ 0b100000#6) = .instr (.add 10 8 9) ∧
  decode .refuse (0b000000#6 ++ 0b00000#5 ++ 0b01001#5 ++ 0b01010#5 ++ 0b11111#5 ++ 0b000011#6) = .instr (.sra 10 9 31) ∧
  decode .refuse (0b000000#6 ++ 0b01000#5 ++ 0b01001#5 ++ 0b00000#5 ++ 0b00000#5 ++ 0b011010#6) = .instr (.div 8 9) ∧
  decode .refuse (0b000000#6 ++ 0b01000#5 ++ 0b00000#5 ++ 0b11111#5 ++ 0b00000#5 ++ 0b001001#6) = .instr (.jalr 31 8) ∧
  decode .refuse (0b000100#6 ++ 0b01000#5 ++ 0b01001#5 ++ 0b0000000000000100#16) = .instr (.beq 8 9 4) ∧
  decode .refuse (0b000001#6 ++ 0b01000#5 ++ 0b10001#5 ++ 0b0000000000010000#16) = .instr (.bgezal 8 16) ∧
  decode .refuse (0b001011#6 ++ 0b01000#5 ++ 0b01001#5 ++ 0b1111111111111111#16) = .instr (.sltiu 9 8 0xFFFF) ∧
  decode .refuse (0b101011#6 ++ 0b01000#5 ++ 0b01001#5 ++ 0b0000000000000010#16) = .instr (.sw 9 8 2) ∧
  decode .refuse (0b000011#6 ++ 0b00000000000000110000000000#26) = .instr (.jal 0xC00) ∧
  decode .implement (0b000000#6 ++ 0b01000#5 ++ 0b01001#5 ++ 0b01010#5 ++ 0b00000#5 ++ 0b100111#6) = .instr (.nor 10 8 9) ∧
  decode .refuse (0b000000#6 ++ 0b01000#5 ++ 0b01001#5 ++ 0b01010#5 ++ 0b00000#5 ++ 0b100111#6) = .contested ∧
  decode .diagnose (0b000000#6 ++ 0b01000#5 ++ 0b01001#5 ++ 0b01010#5 ++ 0b00000#5 ++ 0b100111#6) = .unknown .funct ∧
  decode .refuse (0b111111#6 ++ 0#26) = .unknown .opcode ∧
  decode .refuse (0b000001#6 ++ 0b01000#5 ++ 0b00010#5 ++ 0b0000000000000100#16) = .unknown .regimm

/-- Decode and encode agree: under every R_LOGIC, the word of a well-formed instruction decodes to it, whatever its
operands; the word of a contested instruction that R_LOGIC does not implement is refused or diagnosed (R94). -/
def Obligations.DecodeInvertsEncode : Prop :=
  ∀ (m : RLogic) (i : Instr),
    (i.wellFormed m = true → decode m (encode i) = .instr i) ∧
    (i.wellFormed m = false → m = .refuse → decode m (encode i) = .contested) ∧
    (i.wellFormed m = false → m = .diagnose → decode m (encode i) = .unknown .funct)

/-- A word decodes to i exactly when i is well-formed and the word agrees with the word of i on the bits i uses: unused
fields are don't-care, every used bit counts (R90). -/
def Obligations.DecodeReadsExactlyTheUsedBits : Prop :=
  ∀ (m : RLogic) (w : Word) (i : Instr),
    decode m w = .instr i ↔ i.wellFormed m = true ∧ w &&& i.usedMask = encode i

/-- Every word falls in exactly one class, and the classes are the lists of R91 to R94, written out (R98). -/
def Obligations.EveryWordFallsInItsListedClass : Prop :=
  ∀ (m : RLogic) (w : Word),
    let op := w.extractLsb' 26 6
    let rt := w.extractLsb' 16 5
    let fn := w.extractLsb' 0 6
    let opcodes : List (BitVec 6) := [0x02, 0x03, 0x04, 0x05, 0x06, 0x07, 0x08, 0x09, 0x0A, 0x0B, 0x0C, 0x0D, 0x0E,
      0x0F, 0x20, 0x21, 0x23, 0x24, 0x25, 0x28, 0x29, 0x2B]
    let functs : List (BitVec 6) := [0x00, 0x02, 0x03, 0x04, 0x06, 0x07, 0x08, 0x09, 0x0C, 0x10, 0x11, 0x12, 0x13,
      0x18, 0x19, 0x1A, 0x1B, 0x20, 0x21, 0x22, 0x23]
    let contested : List (BitVec 6) := [0x24, 0x25, 0x26, 0x27, 0x2A, 0x2B]
    let subcodes : List (BitVec 5) := [0x00, 0x01, 0x10, 0x11]
    (decode m w = .unknown .opcode ↔ op ≠ 0 ∧ op ≠ 1 ∧ op ∉ opcodes) ∧
    (decode m w = .unknown .regimm ↔ op = 1 ∧ rt ∉ subcodes) ∧
    (decode m w = .unknown .funct ↔ op = 0 ∧ fn ∉ functs ∧ (fn ∈ contested → m = .diagnose)) ∧
    (decode m w = .contested ↔ op = 0 ∧ fn ∈ contested ∧ m = .refuse) ∧
    ((∃ i, decode m w = .instr i) ↔
      op ∈ opcodes ∨ (op = 1 ∧ rt ∈ subcodes) ∨ (op = 0 ∧ (fn ∈ functs ∨ (fn ∈ contested ∧ m = .implement))))

/-! ## The step (spec/40_cycle.md, spec/60_exceptions.md) -/

/-- A step runs the decoded instruction: where the run flag is set, the fetch is admitted and the fetched word decodes
to i, the step is exec of i on the state the fetch leaves, then the driver's commit. That state reads the same current
snapshot; its next snapshot is current with the fallthrough PC + 4 written first (R122 to R124). -/
def Obligations.StepRunsTheDecodedInstruction : Prop :=
  ∀ (s : State) (w : Word) (i : Instr), s.fetches w → decode s.params.rLogic w = .instr i →
    step s = (match exec i (s.fetched w) with
      | .next t => .next { t with cur := t.nxt, cycles := t.cycles + 1 }
      | .fault r => .fault r
      | .refused r => .refused r) ∧
    s.fetched w = { s with nxt := { s.cur with pc := s.cur.pc + 4 }, events := [.fetch s.cur.pc w] }

/-- An unknown word is a no-op with one diagnostic: PC + 4, and no register, HI, LO or memory byte changes; it does not
stop the run (R133; 43_r_control.md R184; 44_i_branch.md R209; 60_exceptions.md R301). Which words are unknown is D5's
numbering. -/
def Obligations.UnknownWordsOnlyDiagnose : Prop :=
  ∀ (s : State) (w : Word) (k : UnknownKind), s.fetches w → decode s.params.rLogic w = .unknown k →
    ∃ t, step s = .next t ∧ t.cur = { s.cur with pc := s.cur.pc + 4 } ∧ MemSame s t ∧ t.run = true ∧
      t.events = [.fetch s.cur.pc w, .diag { kind := k, pc := s.cur.pc, word := w }] ∧
      t.diags = s.diags ++ [{ kind := k, pc := s.cur.pc, word := w }] ∧ t.cycles = s.cycles + 1 ∧ t.params = s.params

/-- Where a step stops, and nowhere else: the run flag is clear; the fetch is not admitted; the fetched word is a
contested one that R_LOGIC refuses; or the data request of the decoded instruction is not admitted. No instruction
raises an exception, whatever its operands (R125, R300, R304; stuck is the spec's decision D13, refusal D19; halted is
the driver's, log 11). -/
def Obligations.StepsStopOnlyWhereTheSpecSays : Prop :=
  ∀ s : State,
    (step s = .fault .halted ↔ s.run = false) ∧
    (∀ a, step s = .fault (.fetchNotAdmitted a) ↔
      s.run = true ∧ admits s.params.mem s.cur.pc 4 = false ∧ a = s.cur.pc) ∧
    (∀ a, step s = .fault (.dataNotAdmitted a) ↔
      ∃ i n, s.runsInstr i ∧ dataRequest s i = some (a, n) ∧ admits s.params.mem a n = false) ∧
    (∀ w, step s = .refused (.contested w) ↔ s.fetches w ∧ decode s.params.rLogic w = .contested) ∧
    (∀ name, step s ≠ .refused (.notModelled name))

/-- PC(next) of every completed step: the register for jr and jalr, the region target for j and jal, the branch target
for a taken branch, and PC(current) + 4 for everything else, not-taken branches and unknown words among it, with no
alignment check (10_state.md R24, 40_cycle.md R123). The wrap modulo 2^32 is the spec's decision D26. -/
def Obligations.NextPCOfEveryStep : Prop :=
  ∀ (s t : State) (w : Word), s.fetches w → step s = .next t →
    t.cur.pc = match decode s.params.rLogic w with
      | .instr i => nextPC s i
      | .unknown _ => s.cur.pc + 4
      | .contested => s.cur.pc + 4

/-- A step changes no general register but the one its instruction names as destination, and none at all on an unknown
word; where register 0 is hardwired it never changes (10_state.md R22, 40_cycle.md R126, R128). -/
def Obligations.StepChangesOnlyTheDestinationRegister : Prop :=
  ∀ (s t : State) (w : Word) (r : Reg), s.fetches w → step s = .next t →
    ((∀ i, decode s.params.rLogic w = .instr i → i.dest ≠ some r) ∨ (s.params.hardwireR0 = true ∧ r = 0)) →
    t.cur.gpr.get r = s.cur.gpr.get r

/-- HI changes only on mult, multu, div, divu and mthi, LO only on mult, multu, div, divu and mtlo, and neither on an
unknown word (10_state.md R25). -/
def Obligations.HiAndLoChangeOnlyOnTheirInstructions : Prop :=
  ∀ (s t : State) (w : Word), s.fetches w → step s = .next t →
    ((∀ i, decode s.params.rLogic w = .instr i → i.writesHi = false) → t.cur.hi = s.cur.hi) ∧
    ((∀ i, decode s.params.rLogic w = .instr i → i.writesLo = false) → t.cur.lo = s.cur.lo)

/-- The memory calls of a completed step, in order: the fetch, then the one read of a load or the one write of a store,
and nothing for any other word; a store reads nothing (20_memory.md R53). -/
def Obligations.MemoryRequestsOfAStep : Prop :=
  ∀ (s t : State) (w : Word), s.fetches w → step s = .next t →
    t.events.filter Event.isMemory = .fetch s.cur.pc w ::
      (match decode s.params.rLogic w with
        | .instr i => dataEvents s i
        | .unknown _ => []
        | .contested => [])

/-- A byte of memory changes only on a store, and only inside the bytes its request names (20_memory.md R52, R53). -/
def Obligations.MemoryChangesOnlyUnderAStore : Prop :=
  ∀ (s t : State) (w : Word) (a : Nat), s.fetches w → step s = .next t →
    (∀ i ea value width, decode s.params.rLogic w = .instr i → dataEvents s i = [.store ea value width] →
      ∀ k, k < width.bytes → a ≠ byteAddr ea k) →
    t.mem.read a = s.mem.read a

/-- The run flag is cleared by the exit syscall and by nothing else: a step that completes leaves it clear exactly when
the word is syscall and SYSCALL_REG holds SYSCALL_EXIT; that step completes with PC + 4 and is committed (40_cycle.md
R130). That the next step is then the fault halted, and that no step completes from a clear flag, is the model's form of a
driver that invokes the core no more (log 11, DESIGN CHOICE). -/
def Obligations.RunFlagClearedOnlyByTheExitSyscall : Prop :=
  ∀ s : State,
    (∀ w t, s.fetches w → step s = .next t →
      ((t.run = false ↔ decode s.params.rLogic w = .instr .syscall ∧ s.readGPR s.params.syscallReg = s.params.syscallExit) ∧
       (Event.runClear ∈ t.events ↔ t.run = false) ∧
       (t.run = false → t.cur.pc = s.cur.pc + 4 ∧ step t = .fault .halted))) ∧
    (∀ w, s.fetches w → decode s.params.rLogic w = .instr .syscall → ∃ t, step s = .next t) ∧
    (s.run = false → ∀ t, step s ≠ .next t)

/-- The core never reads the next snapshot or the run flag: with both replaced, an invocation has the same outcome, the
same next snapshot, memory and events, and the run flag only follows the replaced value unless RunClear is emitted
(40_cycle.md R127). -/
def Obligations.InvocationNeverReadsNextOrRunFlag : Prop :=
  ∀ (s : State) (n : Snapshot) (b : Bool),
    invoke { s with nxt := n, run := b } =
      match invoke s with
      | .next t => .next { t with run := b && !t.events.contains .runClear }
      | .fault r => .fault r
      | .refused r => .refused r

/-- Every read of an instruction comes from current, and no instruction writes current, the parameters or the count. It
writes at most one general register of next. With the next snapshot replaced the instruction still completes, with the
same memory, events and run flag, and each field of next is either kept in both or written with the same value in both:
no write is read back (40_cycle.md R126, 10_state.md R28). -/
def Obligations.InstructionsReadOnlyCurrentAndWriteOnlyNext : Prop :=
  ∀ (i : Instr) (s t : State) (n : Snapshot), exec i s = .next t →
    t.cur = s.cur ∧ t.params = s.params ∧ t.cycles = s.cycles ∧ t.diags = s.diags ∧
    (∃ d, ∀ r, r ≠ d → t.nxt.gpr.get r = s.nxt.gpr.get r) ∧
    ∃ u, exec i { s with nxt := n } = .next u ∧ u.mem = t.mem ∧ u.events = t.events ∧ u.run = t.run ∧
      (∀ r, (t.nxt.gpr.get r = s.nxt.gpr.get r ∧ u.nxt.gpr.get r = n.gpr.get r) ∨
        u.nxt.gpr.get r = t.nxt.gpr.get r) ∧
      ((t.nxt.pc = s.nxt.pc ∧ u.nxt.pc = n.pc) ∨ u.nxt.pc = t.nxt.pc) ∧
      ((t.nxt.hi = s.nxt.hi ∧ u.nxt.hi = n.hi) ∨ u.nxt.hi = t.nxt.hi) ∧
      ((t.nxt.lo = s.nxt.lo ∧ u.nxt.lo = n.lo) ∨ u.nxt.lo = t.nxt.lo)

/-- Every completed step is one invocation: the count goes up by one, the parameters stay, the diagnostics grow by at
most one, at the end (70_reset_and_hazards.md R341, R334; the count is the driver's, D30). -/
def Obligations.EveryStepIsOneInvocation : Prop :=
  ∀ s t : State, step s = .next t →
    t.cycles = s.cycles + 1 ∧ t.params = s.params ∧ (t.diags = s.diags ∨ ∃ d, t.diags = s.diags ++ [d])

/-- At most one of the data-read and data-write enables is 1 after a step, and a diagnostic and RunClear never come
together (40_cycle.md R121, 60_exceptions.md R304). -/
def Obligations.PortsShowAtMostOneDataAccess : Prop :=
  ∀ s t : State, step s = .next t →
    (t.ports.dataRead = none ∨ t.ports.dataWrite = none) ∧ (t.ports.runClear = false ∨ t.ports.diag = none) ∧
    t.ports.ifAddr = some s.cur.pc

/-! ## The invariant and the runs -/

/-- The state the environment sets up meets the invariant, whatever INIT and the parameters, if its memory is in
canonical form; and the state after reset is one such state (70_reset_and_hazards.md R333; the values of State.reset are
the model's, logs 2 to 9). -/
def Obligations.BootAndResetMeetTheInvariant : Prop :=
  (∀ (p : Params) (init : Snapshot) (mem : Memory), mem.wf = true → (State.boot p init mem).Inv) ∧ State.reset.Inv

/-- Every step keeps the invariant: canonical memory, next equal to current, the events of one invocation, the run flag
clear exactly after RunClear, and at most one diagnostic an invocation. -/
def Obligations.EveryStepKeepsTheInvariant : Prop :=
  ∀ s t : State, s.Inv → step s = .next t → t.Inv

/-- With every address admitted at every alignment, and R_LOGIC not refuse, no run is ever stuck or refused: every step
from every reached state completes until the exit syscall halts the run. No operand, no word and no jump target stops the
core (60_exceptions.md R300; 40_cycle.md R132). -/
def Obligations.RunsOnTheWholeSpaceAreSafe : Prop :=
  ∀ s : State, s.params.mem.regions = [Region.everything] → s.params.mem.alignedOnly = false →
    s.params.rLogic ≠ .refuse → SafeRun s

/-- Where a run of the driver's loop ends, and what its count says: halted after the commit of an invocation that cleared
the run flag, stuck or refused with the state before the step; each invocation counts one, the exit syscall's too; an end
is final (40_cycle.md R132, 70_reset_and_hazards.md R334, R341; the ends are the spec's decision D25). -/
def Obligations.RunsEndHaltedStuckOrRefused : Prop :=
  ∀ (n : Nat) (s : State),
    (∀ t, runFor n s = .running t → Reaches s t ∧ t.cycles = s.cycles + n) ∧
    (∀ t, runFor n s = .halted t → Reaches s t ∧ t.run = false ∧ Event.runClear ∈ t.events ∧ step t = .fault .halted ∧
      s.cycles < t.cycles ∧ t.cycles ≤ s.cycles + n) ∧
    (∀ t r, runFor n s = .stuck t r → Reaches s t ∧ step t = .fault r) ∧
    (∀ t r, runFor n s = .refused t r → Reaches s t ∧ step t = .refused r) ∧
    ((∀ t, runFor n s ≠ .running t) → ∀ k, runFor (n + k) s = runFor n s)

/-- What the spec says of the state after reset: next equals current and the run flag is set (10_state.md R34). The
register values, the PC, the empty memory and the parameters are the model's choices (logs 2 to 9) and not stated. -/
def Obligations.ResetHasNextEqualCurrentAndRunFlagSet : Prop :=
  State.reset.nxt = State.reset.cur ∧ State.reset.run = true ∧ State.reset.events = [] ∧ State.reset.diags = []

/-- Laying a word at the PC makes the very next step fetch exactly it, in any state whose memory is canonical (the
model's own interface, log 17). -/
def Obligations.PlacedWordIsFetched : Prop :=
  ∀ (s : State) (w : Word), s.mem.wf = true → (s.withFetchWord 32 w.toNat).fetches w

/-! ## Registers and memory (spec/10_state.md, spec/20_memory.md) -/

/-- Register 0 is written and read as any other register where it is not hardwired; where it is, its writes are dropped
and it reads 0 (10_state.md R21). -/
def Obligations.RegisterZeroIsOrdinaryUnlessHardwired : Prop :=
  ∀ (s : State) (r : Reg) (v : Word),
    (s.params.hardwireR0 = false →
      (s.writeGPR r v).commit.readGPR r = v ∧ ∀ q, q ≠ r → (s.writeGPR r v).commit.readGPR q = s.commit.readGPR q) ∧
    (s.params.hardwireR0 = true → s.writeGPR 0 v = s ∧ s.readGPR 0 = 0 ∧ (s.writeGPR 0 v).commit.readGPR 0 = 0)

/-- A write32 changes exactly the width / 8 bytes from its address on, modulo 2^32: byte k of them reads as byte k of the
value, counted from the low end in little-endian order and from the high end of the width in big-endian order, and no
other byte changes (20_memory.md R52, R68; D17). The little-endian layout is the spec's decision D14, the place of a
big-endian store's bytes the model's choice (log 9), the canonical form kept the model's own (log 7). -/
def Obligations.WriteChangesExactlyItsBytes : Prop :=
  ∀ (m : Memory) (o : ByteOrder) (a v : Word) (w : Width),
    (∀ x, (∀ k, k < w.bytes → x ≠ (a.toNat + k) % 2 ^ 32) → (m.write32 o a v w).read x = m.read x) ∧
    (m.wf = true → (m.write32 o a v w).wf = true ∧
      ∀ k, k < w.bytes → (m.write32 o a v w).read ((a.toNat + k) % 2 ^ 32) =
        match o with
        | .little => v.extractLsb' (8 * k) 8
        | .big => v.extractLsb' (8 * (w.bytes - 1 - k)) 8)

/-- A word read back at the address it was written to is the word written, in either byte order (20_memory.md R63 rule
3, R68; the big-endian layout is the model's choice, log 9). -/
def Obligations.WordReadsBackAsWritten : Prop :=
  ∀ (m : Memory) (o : ByteOrder) (a v : Word), m.wf = true → (m.write32 o a v .b32).read32 o a = v

/-- What mixed-width accesses see under the little-endian REFMEM (20_memory.md R56; the byte order is D14's): a byte load
inside a stored word; the two bytes of a halfword store and its neighbours; a byte store inside a word. -/
def Obligations.MixedWidthAccessesAreLittleEndian : Prop :=
  ∀ (m : Memory) (a v : Word), m.wf = true →
    (∀ k, k < 4 → signByte ((m.write32 .little a v .b32).read32 .little (a + BitVec.ofNat 32 k)) =
      (v.extractLsb' (8 * k) 8).signExtend 32) ∧
    ((m.write32 .little a v .b16).read32 .little a = (m.read32 .little a).extractLsb' 16 16 ++ v.extractLsb' 0 16) ∧
    ((m.write32 .little (a + 1) v .b8).read32 .little a =
      (m.read32 .little a).extractLsb' 16 16 ++ v.extractLsb' 0 8 ++ (m.read32 .little a).extractLsb' 0 8)

/-- Two canonical memories that read the same at every address are the same list, so equal memories are equal data (the
model's own form, log 7). -/
def Obligations.CanonicalMemoriesWithEqualReadsAreEqual : Prop :=
  ∀ m m' : Memory, m.wf = true → m'.wf = true → (∀ a, m.read a = m'.read a) → m = m'

/-- A store to the address of the next instruction changes what the next step fetches (20_memory.md R66,
70_reset_and_hazards.md R338; D22). -/
def Obligations.StoreIsSeenByTheNextFetch : Prop :=
  ∀ (s t : State) (rt rs : Reg) (imm : BitVec 16), s.mem.wf = true → s.runsInstr (.sw rt rs imm) →
    s.effAddr rs imm = s.cur.pc + 4 → step s = .next t → t.fetches (s.readGPR rt)

/-! ## Addresses and targets (spec/30_encoding.md R87, R88) -/

/-- The effective address is base plus signed displacement; the branch target is PC + 4 plus four times the signed
offset; the jump target is the region of PC(current) with the field times four (R87, R88; 44_i_branch.md R200,
46_i_loadstore.md R240, 47_j_jump.md R260). That the sums wrap modulo 2^32 is the spec's decision D26 (log 25, DEDUCED). -/
def Obligations.AddressesAreComputedModulo32Bits : Prop :=
  ∀ (s : State) (rs : Reg) (imm : BitVec 16) (target : BitVec 26),
    s.effAddr rs imm = BitVec.ofInt 32 ((s.readGPR rs).toNat + imm.toInt) ∧
    s.branchTarget imm = BitVec.ofInt 32 (s.cur.pc.toNat + 4 + 4 * imm.toInt) ∧
    (s.jumpTarget target).toNat = s.cur.pc.toNat / 2 ^ 28 * 2 ^ 28 + 4 * target.toNat

/-! ## Results: each instruction completes, with its value and its whole effect -/

/-- add, addu, sub and subu complete on every state and operands: the sum or difference modulo 2^32 in rd, and nothing
else changes; add and sub trap on nothing (41_r_alu.md R140 to R143). -/
def Obligations.AddAndSubtractWrap : Prop :=
  ∀ (s : State) (rd rs rt : Reg),
    (∃ t, exec (.add rd rs rt) s = .next t ∧
      OnlyGpr s t rd (BitVec.ofNat 32 ((s.readGPR rs).toNat + (s.readGPR rt).toNat))) ∧
    (∃ t, exec (.addu rd rs rt) s = .next t ∧
      OnlyGpr s t rd (BitVec.ofNat 32 ((s.readGPR rs).toNat + (s.readGPR rt).toNat))) ∧
    (∃ t, exec (.sub rd rs rt) s = .next t ∧
      OnlyGpr s t rd (BitVec.ofInt 32 ((s.readGPR rs).toNat - (s.readGPR rt).toNat))) ∧
    (∃ t, exec (.subu rd rs rt) s = .next t ∧
      OnlyGpr s t rd (BitVec.ofInt 32 ((s.readGPR rs).toNat - (s.readGPR rt).toNat)))

/-- The six shifts complete: a product, quotient or floored signed quotient by a power of two, the amount being shamt
or the low five bits of rs (41_r_alu.md R144 to R149). -/
def Obligations.ShiftsMoveByAFiveBitAmount : Prop :=
  ∀ (s : State) (rd rt rs : Reg) (shamt : BitVec 5),
    let v := s.readGPR rt
    let n := (s.readGPR rs).toNat % 32
    (∃ t, exec (.sll rd rt shamt) s = .next t ∧ OnlyGpr s t rd (BitVec.ofNat 32 (v.toNat * 2 ^ shamt.toNat))) ∧
    (∃ t, exec (.srl rd rt shamt) s = .next t ∧ OnlyGpr s t rd (BitVec.ofNat 32 (v.toNat / 2 ^ shamt.toNat))) ∧
    (∃ t, exec (.sra rd rt shamt) s = .next t ∧ OnlyGpr s t rd (BitVec.ofInt 32 (v.toInt / 2 ^ shamt.toNat))) ∧
    (∃ t, exec (.sllv rd rt rs) s = .next t ∧ OnlyGpr s t rd (BitVec.ofNat 32 (v.toNat * 2 ^ n))) ∧
    (∃ t, exec (.srlv rd rt rs) s = .next t ∧ OnlyGpr s t rd (BitVec.ofNat 32 (v.toNat / 2 ^ n))) ∧
    (∃ t, exec (.srav rd rt rs) s = .next t ∧ OnlyGpr s t rd (BitVec.ofInt 32 (v.toInt / 2 ^ n)))

/-- mult and multu complete: HI and LO together are the exact 64-bit product, and nothing else changes (42_r_hilo.md R160,
R161). -/
def Obligations.MultiplyGivesTheExactProduct : Prop :=
  ∀ (s : State) (rs rt : Reg),
    (∃ t h l, exec (.mult rs rt) s = .next t ∧ OnlyHiLo s t h l ∧
      (h ++ l : BitVec 64).toInt = (s.readGPR rs).toInt * (s.readGPR rt).toInt) ∧
    (∃ t h l, exec (.multu rs rt) s = .next t ∧ OnlyHiLo s t h l ∧
      (h ++ l : BitVec 64).toNat = (s.readGPR rs).toNat * (s.readGPR rt).toNat)

/-- div and divu complete. With a divisor that is not zero LO holds the quotient and HI the remainder as integers, signed
division truncating toward zero with the remainder's sign that of the dividend (D9, log 18); the one quotient that does
not fit gives DIV_OVF (D10); a zero divisor changes nothing. Nothing else changes (42_r_hilo.md R162, R163). -/
def Obligations.DivideGivesQuotientAndRemainder : Prop :=
  ∀ (s : State) (rs rt : Reg),
    let a := s.readGPR rs
    let b := s.readGPR rt
    (∃ t h l, exec (.div rs rt) s = .next t ∧ OnlyHiLo s t h l ∧
      (b = 0 → h = s.nxt.hi ∧ l = s.nxt.lo) ∧
      (a.toInt = -2 ^ 31 → b.toInt = -1 → h = s.params.divOvfHi ∧ l = s.params.divOvfLo) ∧
      (b ≠ 0 → ¬(a.toInt = -2 ^ 31 ∧ b.toInt = -1) →
        l.toInt = a.toInt.tdiv b.toInt ∧ h.toInt = a.toInt.tmod b.toInt)) ∧
    (∃ t h l, exec (.divu rs rt) s = .next t ∧ OnlyHiLo s t h l ∧
      (b = 0 → h = s.nxt.hi ∧ l = s.nxt.lo) ∧
      (b ≠ 0 → l.toNat = a.toNat / b.toNat ∧ h.toNat = a.toNat % b.toNat))

/-- mfhi, mflo, mthi and mtlo complete: the current HI or LO in rd, or rs in HI or LO with the other one unchanged
(42_r_hilo.md R164 to R167). -/
def Obligations.HiLoMovesCopyOneRegister : Prop :=
  ∀ (s : State) (r : Reg),
    (∃ t, exec (.mfhi r) s = .next t ∧ OnlyGpr s t r s.cur.hi) ∧
    (∃ t, exec (.mflo r) s = .next t ∧ OnlyGpr s t r s.cur.lo) ∧
    (∃ t, exec (.mthi r) s = .next t ∧ OnlyHiLo s t (s.readGPR r) s.nxt.lo) ∧
    (∃ t, exec (.mtlo r) s = .next t ∧ OnlyHiLo s t s.nxt.hi (s.readGPR r))

/-- jr and jalr complete: the target is the old value of rs, unchecked, and jalr's link is PC(current) + 4, also when rd is
rs (43_r_control.md R180, R181). -/
def Obligations.RegisterJumpsGoToTheOldValue : Prop :=
  ∀ (s : State) (rd rs : Reg),
    (∃ t, exec (.jr rs) s = .next t ∧ OnlyPC s t (s.readGPR rs)) ∧
    (∃ t, exec (.jalr rd rs) s = .next t ∧ OnlyGprAndPC s t rd (s.cur.pc + 4) (s.readGPR rs))

/-- syscall completes: with the exit code in SYSCALL_REG the run flag is cleared, with any other value nothing happens,
not even a diagnostic (43_r_control.md R182; register and code are D7's). -/
def Obligations.SyscallOnlyHalts : Prop :=
  ∀ s : State,
    (s.readGPR s.params.syscallReg = s.params.syscallExit →
      exec .syscall s = .next { s with run := false, events := s.events ++ [.runClear] }) ∧
    (s.readGPR s.params.syscallReg ≠ s.params.syscallExit → exec .syscall s = .next s)

/-- The six branches without a link complete: PC(next) is the target when the condition holds, and otherwise what the
fallthrough wrote; nothing else changes (44_i_branch.md R200 to R206). -/
def Obligations.BranchesWriteOnlyThePC : Prop :=
  ∀ (s : State) (rs rt : Reg) (imm : BitVec 16),
    let a := s.readGPR rs
    let b := s.readGPR rt
    (∃ t, exec (.beq rs rt imm) s = .next t ∧ OnlyPC s t (if a = b then s.branchTarget imm else s.nxt.pc)) ∧
    (∃ t, exec (.bne rs rt imm) s = .next t ∧ OnlyPC s t (if a = b then s.nxt.pc else s.branchTarget imm)) ∧
    (∃ t, exec (.blez rs imm) s = .next t ∧ OnlyPC s t (if a.toInt ≤ 0 then s.branchTarget imm else s.nxt.pc)) ∧
    (∃ t, exec (.bgtz rs imm) s = .next t ∧ OnlyPC s t (if a.toInt ≤ 0 then s.nxt.pc else s.branchTarget imm)) ∧
    (∃ t, exec (.bltz rs imm) s = .next t ∧ OnlyPC s t (if a.toInt < 0 then s.branchTarget imm else s.nxt.pc)) ∧
    (∃ t, exec (.bgez rs imm) s = .next t ∧ OnlyPC s t (if a.toInt < 0 then s.nxt.pc else s.branchTarget imm))

/-- bltzal and bgezal complete: the condition reads the old register, also when it is r31; taken, they link PC(current) + 4
in r31 and go to the target; not taken, they link only under REGIMM_LINK_ALWAYS (44_i_branch.md R207, R208; D12). -/
def Obligations.LinkingBranchesLinkByTheParameter : Prop :=
  ∀ (s : State) (rs : Reg) (imm : BitVec 16),
    ((s.readGPR rs).toInt < 0 →
      ∃ t, exec (.bltzal rs imm) s = .next t ∧ OnlyGprAndPC s t 31 (s.cur.pc + 4) (s.branchTarget imm)) ∧
    (¬(s.readGPR rs).toInt < 0 → s.params.linkAlways = true →
      ∃ t, exec (.bltzal rs imm) s = .next t ∧ OnlyGprAndPC s t 31 (s.cur.pc + 4) s.nxt.pc) ∧
    (¬(s.readGPR rs).toInt < 0 → s.params.linkAlways = false → exec (.bltzal rs imm) s = .next s) ∧
    ((s.readGPR rs).toInt ≥ 0 →
      ∃ t, exec (.bgezal rs imm) s = .next t ∧ OnlyGprAndPC s t 31 (s.cur.pc + 4) (s.branchTarget imm)) ∧
    (¬(s.readGPR rs).toInt ≥ 0 → s.params.linkAlways = true →
      ∃ t, exec (.bgezal rs imm) s = .next t ∧ OnlyGprAndPC s t 31 (s.cur.pc + 4) s.nxt.pc) ∧
    (¬(s.readGPR rs).toInt ≥ 0 → s.params.linkAlways = false → exec (.bgezal rs imm) s = .next s)

/-- addi, addiu, slti and sltiu complete with the sign-extended immediate: a wrapping sum, and 1 or 0 for the signed and
the unsigned comparison, sltiu's immediate being sign-extended first (45_i_alu.md R220 to R223). -/
def Obligations.SignedImmediatesAddAndCompare : Prop :=
  ∀ (s : State) (rt rs : Reg) (imm : BitVec 16),
    let a := s.readGPR rs
    (∃ t, exec (.addi rt rs imm) s = .next t ∧ OnlyGpr s t rt (BitVec.ofInt 32 (a.toInt + imm.toInt))) ∧
    (∃ t, exec (.addiu rt rs imm) s = .next t ∧ OnlyGpr s t rt (BitVec.ofInt 32 (a.toInt + imm.toInt))) ∧
    (∃ t, exec (.slti rt rs imm) s = .next t ∧ OnlyGpr s t rt (if a.toInt < imm.toInt then 1 else 0)) ∧
    (∃ t, exec (.sltiu rt rs imm) s = .next t ∧
      OnlyGpr s t rt (if a.toNat < (if imm.toNat < 2 ^ 15 then imm.toNat else imm.toNat + (2 ^ 32 - 2 ^ 16)) then 1 else 0))

/-- andi, ori, xori and lui complete, bit by bit: the immediate is zero-extended for the three, so the high half is zero,
kept and kept; lui puts it in the high half over a zero low half (45_i_alu.md R224 to R227). -/
def Obligations.LogicImmediatesAreZeroExtended : Prop :=
  ∀ (s : State) (rt rs : Reg) (imm : BitVec 16),
    let a := s.readGPR rs
    (∃ t, exec (.andi rt rs imm) s = .next t ∧ OnlyGpr s t rt (0#16 ++ (a.extractLsb' 0 16 &&& imm))) ∧
    (∃ t, exec (.ori rt rs imm) s = .next t ∧
      OnlyGpr s t rt (a.extractLsb' 16 16 ++ (a.extractLsb' 0 16 ||| imm))) ∧
    (∃ t, exec (.xori rt rs imm) s = .next t ∧
      OnlyGpr s t rt (a.extractLsb' 16 16 ++ (a.extractLsb' 0 16 ^^^ imm))) ∧
    (∃ t, exec (.lui rt imm) s = .next t ∧ OnlyGpr s t rt (BitVec.ofNat 32 (imm.toNat * 65536)))

/-- An admitted load completes: one read32 at the effective address, its low byte, low halfword or whole word in rt,
sign- or zero-extended, and no byte of memory changes (46_i_loadstore.md R240 to R246; D16, D27). -/
def Obligations.AdmittedLoadsComplete : Prop :=
  ∀ (s : State) (rt rs : Reg) (imm : BitVec 16),
    let ea := s.effAddr rs imm
    let d := s.mem.read32 s.params.mem.order ea
    admits s.params.mem ea 4 = true →
    (∃ t, exec (.lb rt rs imm) s = .next t ∧ OnlyLoaded s t rt (BitVec.ofInt 32 (d.extractLsb' 0 8).toInt) ea d) ∧
    (∃ t, exec (.lh rt rs imm) s = .next t ∧ OnlyLoaded s t rt (BitVec.ofInt 32 (d.extractLsb' 0 16).toInt) ea d) ∧
    (∃ t, exec (.lw rt rs imm) s = .next t ∧ OnlyLoaded s t rt d ea d) ∧
    (∃ t, exec (.lbu rt rs imm) s = .next t ∧ OnlyLoaded s t rt (BitVec.ofNat 32 (d.toNat % 2 ^ 8)) ea d) ∧
    (∃ t, exec (.lhu rt rs imm) s = .next t ∧ OnlyLoaded s t rt (BitVec.ofNat 32 (d.toNat % 2 ^ 16)) ea d)

/-- An admitted store completes: one write32 at the effective address of the low 8, 16 or 32 bits of rt; exactly 1, 2 or
4 bytes may change, and no register does (46_i_loadstore.md R240, R247 to R249; D17). Where each byte lands is the
spec's decision D14 in little-endian order and the model's choice in big-endian order, of which the spec gives no write
layout (log 9, DESIGN CHOICE). The premise on memory is the invariant's. -/
def Obligations.AdmittedStoresComplete : Prop :=
  ∀ (s : State) (rt rs : Reg) (imm : BitVec 16),
    let ea := s.effAddr rs imm
    let v := s.readGPR rt
    s.mem.wf = true →
    (admits s.params.mem ea 1 = true →
      ∃ t, exec (.sb rt rs imm) s = .next t ∧ OnlyStored s t ea (BitVec.ofNat 32 (v.toNat % 2 ^ 8)) .b8) ∧
    (admits s.params.mem ea 2 = true →
      ∃ t, exec (.sh rt rs imm) s = .next t ∧ OnlyStored s t ea (BitVec.ofNat 32 (v.toNat % 2 ^ 16)) .b16) ∧
    (admits s.params.mem ea 4 = true → ∃ t, exec (.sw rt rs imm) s = .next t ∧ OnlyStored s t ea v .b32)

/-- A load or store whose request is not admitted is stuck at its effective address; a load needs four bytes admitted
whatever its width, a store only those it writes (46_i_loadstore.md R240, R241; 20_memory.md R54; D13). -/
def Obligations.DeclinedAccessesAreStuck : Prop :=
  ∀ (s : State) (rt rs : Reg) (imm : BitVec 16),
    let ea := s.effAddr rs imm
    (admits s.params.mem ea 4 = false →
      exec (.lb rt rs imm) s = .fault (.dataNotAdmitted ea) ∧ exec (.lh rt rs imm) s = .fault (.dataNotAdmitted ea) ∧
      exec (.lw rt rs imm) s = .fault (.dataNotAdmitted ea) ∧ exec (.lbu rt rs imm) s = .fault (.dataNotAdmitted ea) ∧
      exec (.lhu rt rs imm) s = .fault (.dataNotAdmitted ea) ∧ exec (.sw rt rs imm) s = .fault (.dataNotAdmitted ea)) ∧
    (admits s.params.mem ea 2 = false → exec (.sh rt rs imm) s = .fault (.dataNotAdmitted ea)) ∧
    (admits s.params.mem ea 1 = false → exec (.sb rt rs imm) s = .fault (.dataNotAdmitted ea))

/-- j: a word with opcode 2 is j, and it completes with PC(next) the top four bits of PC(current) over the field and two
zeros, always word-aligned and in the region of PC(current); nothing else changes (47_j_jump.md R260). -/
def Obligations.JumpStaysInTheCurrentRegion : Prop :=
  (∀ (m : RLogic) (target : BitVec 26), decode m (0x02#6 ++ target) = .instr (.j target)) ∧
  ∀ (s : State) (target : BitVec 26), ∃ t p, exec (.j target) s = .next t ∧ OnlyPC s t p ∧
    p = s.cur.pc.extractLsb' 28 4 ++ target ++ 0#2

/-- jal: a word with opcode 3 is jal, and it completes as j does, with r31 = PC(current) + 4 beside it (47_j_jump.md
R261); that the link wraps modulo 2^32 is the spec's decision D26. -/
def Obligations.JumpAndLinkLinksRegister31 : Prop :=
  (∀ (m : RLogic) (target : BitVec 26), decode m (0x03#6 ++ target) = .instr (.jal target)) ∧
  ∀ (s : State) (target : BitVec 26), ∃ t p, exec (.jal target) s = .next t ∧
    OnlyGprAndPC s t 31 (BitVec.ofNat 32 (s.cur.pc.toNat + 4)) p ∧ p = s.cur.pc.extractLsb' 28 4 ++ target ++ 0#2

/-- The contested instructions complete, bit by bit for the four logic ones and as 1 or 0 for the two comparisons
(48_r_logic_ext.md R270 to R275, all general knowledge, log 23). -/
def Obligations.ContestedLogicCompletes : Prop :=
  ∀ (s : State) (rd rs rt : Reg),
    let a := s.readGPR rs
    let b := s.readGPR rt
    (∃ t v, exec (.and rd rs rt) s = .next t ∧ OnlyGpr s t rd v ∧
      ∀ k, k < 32 → v.getLsbD k = (a.getLsbD k && b.getLsbD k)) ∧
    (∃ t v, exec (.or rd rs rt) s = .next t ∧ OnlyGpr s t rd v ∧
      ∀ k, k < 32 → v.getLsbD k = (a.getLsbD k || b.getLsbD k)) ∧
    (∃ t v, exec (.xor rd rs rt) s = .next t ∧ OnlyGpr s t rd v ∧
      ∀ k, k < 32 → v.getLsbD k = (a.getLsbD k != b.getLsbD k)) ∧
    (∃ t v, exec (.nor rd rs rt) s = .next t ∧ OnlyGpr s t rd v ∧
      ∀ k, k < 32 → v.getLsbD k = !(a.getLsbD k || b.getLsbD k)) ∧
    (∃ t, exec (.slt rd rs rt) s = .next t ∧ OnlyGpr s t rd (if a.toInt < b.toInt then 1 else 0)) ∧
    (∃ t, exec (.sltu rd rs rt) s = .next t ∧ OnlyGpr s t rd (if a.toNat < b.toNat then 1 else 0))

/-! ## Whole-machine rules (spec/60_exceptions.md, spec/70_reset_and_hazards.md) -/

/-- Division by zero is silent: the step completes with PC + 4, HI and LO and every other register and byte unchanged, and
no event but the fetch (60_exceptions.md R302). -/
def Obligations.DivisionByZeroIsSilent : Prop :=
  ∀ (s : State) (w : Word) (rs rt : Reg), s.fetches w →
    (decode s.params.rLogic w = .instr (.div rs rt) ∨ decode s.params.rLogic w = .instr (.divu rs rt)) →
    s.readGPR rt = 0 →
    ∃ t, step s = .next t ∧ t.cur = { s.cur with pc := s.cur.pc + 4 } ∧ t.mem = s.mem ∧ t.run = true ∧
      t.events = [.fetch s.cur.pc w] ∧ t.diags = s.diags

/-- There is no HI/LO hazard: mfhi and mflo run right after mult see the two halves of its product
(70_reset_and_hazards.md R337), in a destination that is not a hardwired register 0. -/
def Obligations.ProductIsReadByTheNextInstruction : Prop :=
  ∀ (s t u : State) (rs rt rd : Reg), s.runsInstr (.mult rs rt) → step s = .next t → step t = .next u →
    ¬(s.params.hardwireR0 = true ∧ rd = 0) →
    (t.runsInstr (.mfhi rd) →
      (u.cur.gpr.get rd).toInt = (s.readGPR rs).toInt * (s.readGPR rt).toInt / 2 ^ 32) ∧
    (t.runsInstr (.mflo rd) →
      ((u.cur.gpr.get rd).toNat : Int) = (s.readGPR rs).toInt * (s.readGPR rt).toInt % 2 ^ 32)

/-- There is no delay slot: a jal whose target is a jr of r31 comes back to the instruction after the jal, the one that a
delay slot would have run first (70_reset_and_hazards.md R335), and leaves every register but r31, and HI, LO and memory,
as they were. -/
def Obligations.CallReturnsToTheInstructionAfterIt : Prop :=
  ∀ (s t u : State) (target : BitVec 26), s.runsInstr (.jal target) → step s = .next t → t.runsInstr (.jr 31) →
    step t = .next u →
    u.cur.pc = s.cur.pc + 4 ∧ u.cur.gpr.get 31 = s.cur.pc + 4 ∧ (∀ r, r ≠ 31 → u.cur.gpr.get r = s.cur.gpr.get r) ∧
    u.cur.hi = s.cur.hi ∧ u.cur.lo = s.cur.lo ∧ MemSame s u

/-- The target of a branch keeps PC(current)'s low two bits and that of a jump has them zero, so with aligned register
jumps an aligned PC stays aligned: a step from an aligned PC leaves a misaligned one only by jr or jalr
(44_i_branch.md R200, 47_j_jump.md R262). -/
def Obligations.OnlyRegisterJumpsMisalignThePC : Prop :=
  ∀ (s t : State) (w : Word), s.fetches w → step s = .next t → s.cur.pc.toNat % 4 = 0 →
    (∀ rd rs, decode s.params.rLogic w ≠ .instr (.jr rs) ∧ decode s.params.rLogic w ≠ .instr (.jalr rd rs)) →
    t.cur.pc.toNat % 4 = 0
end

