-- ==== Sys2Proof/Laws/Decode.lean ====
section
/-! SUPPORT. The fields of an encoded word, and a word put together from its fields (spec/30_encoding.md R81 to R84). -/

namespace Sys2Proof

@[simp] theorem reg_regBits (r : Reg) : reg (regBits r) = r := rfl

@[simp] theorem regBits_reg (b : BitVec 5) : regBits (reg b) = b := rfl

/-- Cutting a row of the R-format's six pieces gives the pieces (R82). -/
theorem extract_piecesR (a : BitVec 6) (b c d e : BitVec 5) (f : BitVec 6) :
    (a ++ b ++ c ++ d ++ e ++ f).extractLsb' 26 6 = a ∧ (a ++ b ++ c ++ d ++ e ++ f).extractLsb' 21 5 = b ∧
    (a ++ b ++ c ++ d ++ e ++ f).extractLsb' 16 5 = c ∧ (a ++ b ++ c ++ d ++ e ++ f).extractLsb' 11 5 = d ∧
    (a ++ b ++ c ++ d ++ e ++ f).extractLsb' 6 5 = e ∧ (a ++ b ++ c ++ d ++ e ++ f).extractLsb' 0 6 = f := by
  simp (disch := decide) only [BitVec.extractLsb'_append_eq_of_le, BitVec.extractLsb'_append_eq_of_add_le]
  simp

/-- Cutting a row of the I-format's four pieces gives the pieces (R83). -/
theorem extract_piecesI (a : BitVec 6) (b c : BitVec 5) (d : BitVec 16) :
    (a ++ b ++ c ++ d).extractLsb' 26 6 = a ∧ (a ++ b ++ c ++ d).extractLsb' 21 5 = b ∧
    (a ++ b ++ c ++ d).extractLsb' 16 5 = c ∧ (a ++ b ++ c ++ d).extractLsb' 0 16 = d := by
  simp (disch := decide) only [BitVec.extractLsb'_append_eq_of_le, BitVec.extractLsb'_append_eq_of_add_le]
  simp

/-- Cutting a row of the J-format's two pieces gives the pieces (R84). -/
theorem extract_piecesJ (a : BitVec 6) (b : BitVec 26) :
    (a ++ b).extractLsb' 26 6 = a ∧ (a ++ b).extractLsb' 0 26 = b := by
  simp (disch := decide) only [BitVec.extractLsb'_append_eq_of_le, BitVec.extractLsb'_append_eq_of_add_le]
  simp

/-- The fields of an R-format word (R82). -/
theorem fields_wordR (rs rt rd : Reg) (shamt : BitVec 5) (funct : BitVec 6) :
    (fields (wordR rs rt rd shamt funct)).opcode = Code.special ∧ (fields (wordR rs rt rd shamt funct)).rs = regBits rs ∧
    (fields (wordR rs rt rd shamt funct)).rt = regBits rt ∧ (fields (wordR rs rt rd shamt funct)).rd = regBits rd ∧
    (fields (wordR rs rt rd shamt funct)).shamt = shamt ∧ (fields (wordR rs rt rd shamt funct)).funct = funct :=
  extract_piecesR Code.special (regBits rs) (regBits rt) (regBits rd) shamt funct

/-- The fields of an I-format word (R83). -/
theorem fields_wordI (op : BitVec 6) (rs : Reg) (rt : BitVec 5) (imm : BitVec 16) :
    (fields (wordI op rs rt imm)).opcode = op ∧ (fields (wordI op rs rt imm)).rs = regBits rs ∧
    (fields (wordI op rs rt imm)).rt = rt ∧ (fields (wordI op rs rt imm)).imm16 = imm :=
  extract_piecesI op (regBits rs) rt imm

/-- The fields of a J-format word (R84). -/
theorem fields_wordJ (op : BitVec 6) (target : BitVec 26) :
    (fields (wordJ op target)).opcode = op ∧ (fields (wordJ op target)).target26 = target :=
  extract_piecesJ op target

/-- Two neighbouring pieces of a word are one piece. -/
theorem extract_join (w : Word) {start₁ start₂ len₁ len₂ : Nat} (h : start₂ = start₁ + len₁) :
    w.extractLsb' start₂ len₂ ++ w.extractLsb' start₁ len₁ = w.extractLsb' start₁ (len₂ + len₁) :=
  BitVec.extractLsb'_append_extractLsb'_eq_extractLsb' h

/-- A word is its six R-format fields in a row (R82). -/
theorem word_eq_fieldsR (w : Word) :
    w = (fields w).opcode ++ (fields w).rs ++ (fields w).rt ++ (fields w).rd ++ (fields w).shamt ++ (fields w).funct := by
  have h : w.extractLsb' 26 6 ++ w.extractLsb' 21 5 ++ w.extractLsb' 16 5 ++ w.extractLsb' 11 5 ++ w.extractLsb' 6 5 ++
      w.extractLsb' 0 6 = w.extractLsb' 0 (6 + 5 + 5 + 5 + 5 + 6) := by
    rw [extract_join w (by rfl), extract_join w (by rfl), extract_join w (by rfl), extract_join w (by rfl),
      extract_join w (by rfl)]
  exact BitVec.extractLsb'_eq_self.symm.trans h.symm

/-- A word is its four I-format fields in a row (R83). -/
theorem word_eq_fieldsI (w : Word) :
    w = (fields w).opcode ++ (fields w).rs ++ (fields w).rt ++ (fields w).imm16 := by
  have h : w.extractLsb' 26 6 ++ w.extractLsb' 21 5 ++ w.extractLsb' 16 5 ++ w.extractLsb' 0 16 =
      w.extractLsb' 0 (6 + 5 + 5 + 16) := by
    rw [extract_join w (by rfl), extract_join w (by rfl), extract_join w (by rfl)]
  exact BitVec.extractLsb'_eq_self.symm.trans h.symm

/-- A word is its two J-format fields in a row (R84). -/
theorem word_eq_fieldsJ (w : Word) : w = (fields w).opcode ++ (fields w).target26 := by
  have h : w.extractLsb' 26 6 ++ w.extractLsb' 0 26 = w.extractLsb' 0 (6 + 26) := extract_join w (by rfl)
  exact BitVec.extractLsb'_eq_self.symm.trans h.symm

end Sys2Proof
end

