-- ==== Sys2Proof/Laws/Memory.lean ====
section
/-! SUPPORT. Memory: what a read sees after a write, and that every operation keeps the canonical form. -/

namespace Sys2Proof.Machine.Memory

/-! ## The canonical form -/

theorem wfFrom_cons {lo a : Nat} {b : Byte} {m : Memory} :
    wfFrom lo ((a, b) :: m) = true ↔ lo ≤ a ∧ a < 2 ^ 32 ∧ b ≠ unlisted ∧ wfFrom (a + 1) m = true := by
  simp [wfFrom, and_assoc]

theorem wfFrom_mono {lo lo' : Nat} {m : Memory} (h : wfFrom lo' m = true) (hl : lo ≤ lo') : wfFrom lo m = true := by
  cases m with
  | nil => rfl
  | cons c m =>
    obtain ⟨h1, h2⟩ := wfFrom_cons.1 h
    exact wfFrom_cons.2 ⟨by omega, h2⟩

/-- Below the first address a canonical list lists nothing. -/
theorem read_below {lo a : Nat} {m : Memory} (h : wfFrom lo m = true) (ha : a < lo) : m.read a = unlisted := by
  induction m generalizing lo with
  | nil => rfl
  | cons c m ih =>
    obtain ⟨h1, -, -, h2⟩ := wfFrom_cons.1 h
    rw [read, if_neg (by omega)]
    exact ih h2 (by omega)

theorem wfFrom_consCell {lo a : Nat} {b : Byte} {m : Memory} (hl : lo ≤ a) (ha : a < 2 ^ 32)
    (h : wfFrom (a + 1) m = true) : wfFrom lo (Memory.cons a b m) = true := by
  unfold Memory.cons
  split
  · exact wfFrom_mono h (by omega)
  · exact wfFrom_cons.2 ⟨hl, ha, ‹_›, h⟩

theorem wfFrom_write {lo a : Nat} {b : Byte} {m : Memory} (h : wfFrom lo m = true) (hl : lo ≤ a) (ha : a < 2 ^ 32) :
    wfFrom lo (m.write a b) = true := by
  induction m generalizing lo with
  | nil => exact wfFrom_consCell hl ha rfl
  | cons c m ih =>
    obtain ⟨h1, h2, h3, h4⟩ := wfFrom_cons.1 h
    simp only [write]
    split
    · exact wfFrom_consCell hl ha (wfFrom_cons.2 ⟨by omega, h2, h3, h4⟩)
    · split
      · exact wfFrom_consCell hl ha (wfFrom_mono h4 (by omega))
      · exact wfFrom_cons.2 ⟨h1, h2, h3, ih h4 (by omega)⟩

theorem wf_write {a : Nat} {b : Byte} {m : Memory} (h : m.wf = true) (ha : a < 2 ^ 32) : (m.write a b).wf = true :=
  wfFrom_write h (Nat.zero_le a) ha

theorem byteAddr_lt (a : Word) (k : Nat) : byteAddr a k < 2 ^ 32 := (a + BitVec.ofNat 32 k).isLt

theorem wf_writeBytes (o : ByteOrder) (n : Nat) (a v : Word) (left k : Nat) {m : Memory} (h : m.wf = true) :
    (writeBytes o n a v left k m).wf = true := by
  induction left generalizing k m with
  | zero => exact h
  | succ left ih => exact ih (k + 1) (wf_write h (byteAddr_lt a k))

theorem wf_write32 (o : ByteOrder) (a v : Word) (w : Width) {m : Memory} (h : m.wf = true) :
    (m.write32 o a v w).wf = true :=
  wf_writeBytes o w.bytes a v w.bytes 0 h

/-! ## One byte -/

theorem read_consCell_other {a a' : Nat} {b : Byte} {m : Memory} (h : a' ≠ a) :
    (Memory.cons a b m).read a' = m.read a' := by
  unfold Memory.cons
  split
  · rfl
  · rw [read, if_neg h]

theorem read_consCell_same {a : Nat} {b : Byte} {m : Memory} (h : wfFrom (a + 1) m = true) :
    (Memory.cons a b m).read a = b := by
  unfold Memory.cons
  split
  · rw [read_below h (by omega), ‹b = unlisted›]
  · rw [read, if_pos rfl]

/-- A write leaves every other byte alone, canonical or not. -/
theorem read_write_other {a a' : Nat} {b : Byte} {m : Memory} (h : a' ≠ a) : (m.write a b).read a' = m.read a' := by
  induction m with
  | nil => exact read_consCell_other h
  | cons c m ih =>
    simp only [write]
    split
    · exact read_consCell_other h
    · split
      · rename_i h2
        rw [read_consCell_other h, read, if_neg (by omega)]
      · simp only [read, ih]

theorem read_write_same_from {lo a : Nat} {b : Byte} {m : Memory} (h : wfFrom lo m = true) :
    (m.write a b).read a = b := by
  induction m generalizing lo with
  | nil => exact read_consCell_same rfl
  | cons c m ih =>
    obtain ⟨h1, h2, h3, h4⟩ := wfFrom_cons.1 h
    simp only [write]
    split
    · exact read_consCell_same (wfFrom_cons.2 ⟨by omega, h2, h3, h4⟩)
    · split
      · rename_i h5
        exact read_consCell_same (h5 ▸ h4)
      · rename_i h5
        rw [read, if_neg h5]
        exact ih h4

/-- A read of the byte just written gives the value written. -/
theorem read_write_same {a : Nat} {b : Byte} {m : Memory} (h : m.wf = true) : (m.write a b).read a = b :=
  read_write_same_from h

theorem read_write {a a' : Nat} {b : Byte} {m : Memory} (h : m.wf = true) :
    (m.write a b).read a' = if a' = a then b else m.read a' := by
  split
  · rename_i h'
    rw [h', read_write_same h]
  · exact read_write_other ‹_›

/-! ## Several bytes -/

/-- A write of several bytes leaves every byte outside them alone. -/
theorem read_writeBytes_outside (o : ByteOrder) (n : Nat) (a v : Word) (left k a' : Nat) (m : Memory)
    (h : ∀ i, k ≤ i → i < k + left → a' ≠ byteAddr a i) : (writeBytes o n a v left k m).read a' = m.read a' := by
  induction left generalizing k m with
  | zero => rfl
  | succ left ih =>
    rw [writeBytes, ih (k + 1) _ fun i h1 h2 => h i (by omega) (by omega)]
    exact read_write_other (h k (by omega) (by omega))

theorem byteAddr_inj {a : Word} {i j : Nat} (hi : i < 2 ^ 32) (hj : j < 2 ^ 32) (h : byteAddr a i = byteAddr a j) :
    i = j := by
  have h1 : a + BitVec.ofNat 32 i = a + BitVec.ofNat 32 j := BitVec.eq_of_toNat_eq h
  have h2 : BitVec.ofNat 32 i = BitVec.ofNat 32 j := by simpa using h1
  have h3 := congrArg BitVec.toNat h2
  rwa [BitVec.toNat_ofNat, BitVec.toNat_ofNat, Nat.mod_eq_of_lt hi, Nat.mod_eq_of_lt hj] at h3

/-- Each byte of a write of several bytes reads as what the write puts there. -/
theorem read_writeBytes_inside (o : ByteOrder) (n : Nat) (a v : Word) (left k i : Nat) {m : Memory}
    (hm : m.wf = true) (hlt : k + left < 2 ^ 32) (h1 : k ≤ i) (h2 : i < k + left) :
    (writeBytes o n a v left k m).read (byteAddr a i) = storedByte o n v i := by
  induction left generalizing k m with
  | zero => omega
  | succ left ih =>
    have hw := wf_write (b := storedByte o n v k) hm (byteAddr_lt a k)
    by_cases hk : i = k
    · subst hk
      rw [writeBytes, read_writeBytes_outside _ _ _ _ _ _ _ _ fun j h3 h4 h5 => by
        have := byteAddr_inj (by omega) (by omega) h5
        omega]
      exact read_write_same hm
    · rw [writeBytes]
      exact ih (k + 1) hw (by omega) (by omega) (by omega)

theorem width_bytes_le (w : Width) : w.bytes ≤ 4 := by cases w <;> decide

/-- Exactly the width / 8 bytes of a write32 can change (spec/20_memory.md R52). -/
theorem read_write32_outside (o : ByteOrder) (a v : Word) (w : Width) (a' : Nat) (m : Memory)
    (h : ∀ i, i < w.bytes → a' ≠ byteAddr a i) : (m.write32 o a v w).read a' = m.read a' :=
  read_writeBytes_outside o w.bytes a v w.bytes 0 a' m fun i _ h2 => h i (by omega)

/-- The bytes a write32 leaves (spec/20_memory.md R68). -/
theorem read_write32_inside (o : ByteOrder) (a v : Word) (w : Width) {i : Nat} {m : Memory} (hm : m.wf = true)
    (h : i < w.bytes) : (m.write32 o a v w).read (byteAddr a i) = storedByte o w.bytes v i :=
  read_writeBytes_inside o w.bytes a v w.bytes 0 i hm (by have := width_bytes_le w; omega) (Nat.zero_le i) (by omega)

end Sys2Proof.Machine.Memory
end

