-- ==== Sys2Proof/Laws/State.lean ====
section
/-! SUPPORT. One lemma per field per update, so that no proof unfolds a record update. -/

namespace Sys2Proof.Machine

/-! ## Snapshot.setGPR -/

@[simp] theorem Snapshot.setGPR_pc (x : Snapshot) (r : Reg) (v : Word) : (x.setGPR r v).pc = x.pc := rfl
@[simp] theorem Snapshot.setGPR_hi (x : Snapshot) (r : Reg) (v : Word) : (x.setGPR r v).hi = x.hi := rfl
@[simp] theorem Snapshot.setGPR_lo (x : Snapshot) (r : Reg) (v : Word) : (x.setGPR r v).lo = x.lo := rfl

theorem Snapshot.setGPR_get (x : Snapshot) (r q : Reg) (v : Word) :
    (x.setGPR r v).gpr.get q = if q = r then v else x.gpr.get q := by
  simp only [Snapshot.setGPR, Vector.get_eq_getElem, Vector.getElem_set, Fin.ext_iff, eq_comm]

@[simp] theorem Snapshot.setGPR_get_same (x : Snapshot) (r : Reg) (v : Word) : (x.setGPR r v).gpr.get r = v := by
  rw [Snapshot.setGPR_get, if_pos rfl]

theorem Snapshot.setGPR_get_other (x : Snapshot) {r q : Reg} (v : Word) (h : q ≠ r) :
    (x.setGPR r v).gpr.get q = x.gpr.get q := by
  rw [Snapshot.setGPR_get, if_neg h]

/-! ## writeGPR -/

@[simp] theorem writeGPR_cur (s : State) (r : Reg) (v : Word) : (s.writeGPR r v).cur = s.cur := by
  unfold State.writeGPR; split <;> rfl
@[simp] theorem writeGPR_mem (s : State) (r : Reg) (v : Word) : (s.writeGPR r v).mem = s.mem := by
  unfold State.writeGPR; split <;> rfl
@[simp] theorem writeGPR_run (s : State) (r : Reg) (v : Word) : (s.writeGPR r v).run = s.run := by
  unfold State.writeGPR; split <;> rfl
@[simp] theorem writeGPR_events (s : State) (r : Reg) (v : Word) : (s.writeGPR r v).events = s.events := by
  unfold State.writeGPR; split <;> rfl
@[simp] theorem writeGPR_diags (s : State) (r : Reg) (v : Word) : (s.writeGPR r v).diags = s.diags := by
  unfold State.writeGPR; split <;> rfl
@[simp] theorem writeGPR_cycles (s : State) (r : Reg) (v : Word) : (s.writeGPR r v).cycles = s.cycles := by
  unfold State.writeGPR; split <;> rfl
@[simp] theorem writeGPR_params (s : State) (r : Reg) (v : Word) : (s.writeGPR r v).params = s.params := by
  unfold State.writeGPR; split <;> rfl
@[simp] theorem writeGPR_nxt_pc (s : State) (r : Reg) (v : Word) : (s.writeGPR r v).nxt.pc = s.nxt.pc := by
  unfold State.writeGPR; split <;> rfl
@[simp] theorem writeGPR_nxt_hi (s : State) (r : Reg) (v : Word) : (s.writeGPR r v).nxt.hi = s.nxt.hi := by
  unfold State.writeGPR; split <;> rfl
@[simp] theorem writeGPR_nxt_lo (s : State) (r : Reg) (v : Word) : (s.writeGPR r v).nxt.lo = s.nxt.lo := by
  unfold State.writeGPR; split <;> rfl

/-- What the next snapshot's register q holds after a write of r: R128 in full. -/
theorem writeGPR_nxt_get (s : State) (r q : Reg) (v : Word) :
    (s.writeGPR r v).nxt.gpr.get q
      = if q = r ∧ ¬(s.params.hardwireR0 = true ∧ r = 0) then v else s.nxt.gpr.get q := by
  by_cases h : s.params.hardwireR0 = true ∧ r = 0
  · simp [State.writeGPR, h]
  · simp [State.writeGPR, h, Snapshot.setGPR_get]

/-- A write that is dropped changes nothing (R128). -/
theorem writeGPR_dropped (s : State) (v : Word) (h : s.params.hardwireR0 = true) : s.writeGPR 0 v = s := by
  simp [State.writeGPR, h]

/-! ## writePC -/

@[simp] theorem writePC_cur (s : State) (v : Word) : (s.writePC v).cur = s.cur := rfl
@[simp] theorem writePC_mem (s : State) (v : Word) : (s.writePC v).mem = s.mem := rfl
@[simp] theorem writePC_run (s : State) (v : Word) : (s.writePC v).run = s.run := rfl
@[simp] theorem writePC_events (s : State) (v : Word) : (s.writePC v).events = s.events := rfl
@[simp] theorem writePC_diags (s : State) (v : Word) : (s.writePC v).diags = s.diags := rfl
@[simp] theorem writePC_cycles (s : State) (v : Word) : (s.writePC v).cycles = s.cycles := rfl
@[simp] theorem writePC_params (s : State) (v : Word) : (s.writePC v).params = s.params := rfl
@[simp] theorem writePC_nxt_gpr (s : State) (v : Word) : (s.writePC v).nxt.gpr = s.nxt.gpr := rfl
@[simp] theorem writePC_nxt_pc (s : State) (v : Word) : (s.writePC v).nxt.pc = v := rfl
@[simp] theorem writePC_nxt_hi (s : State) (v : Word) : (s.writePC v).nxt.hi = s.nxt.hi := rfl
@[simp] theorem writePC_nxt_lo (s : State) (v : Word) : (s.writePC v).nxt.lo = s.nxt.lo := rfl

/-! ## writeHI -/

@[simp] theorem writeHI_cur (s : State) (v : Word) : (s.writeHI v).cur = s.cur := rfl
@[simp] theorem writeHI_mem (s : State) (v : Word) : (s.writeHI v).mem = s.mem := rfl
@[simp] theorem writeHI_run (s : State) (v : Word) : (s.writeHI v).run = s.run := rfl
@[simp] theorem writeHI_events (s : State) (v : Word) : (s.writeHI v).events = s.events := rfl
@[simp] theorem writeHI_diags (s : State) (v : Word) : (s.writeHI v).diags = s.diags := rfl
@[simp] theorem writeHI_cycles (s : State) (v : Word) : (s.writeHI v).cycles = s.cycles := rfl
@[simp] theorem writeHI_params (s : State) (v : Word) : (s.writeHI v).params = s.params := rfl
@[simp] theorem writeHI_nxt_gpr (s : State) (v : Word) : (s.writeHI v).nxt.gpr = s.nxt.gpr := rfl
@[simp] theorem writeHI_nxt_pc (s : State) (v : Word) : (s.writeHI v).nxt.pc = s.nxt.pc := rfl
@[simp] theorem writeHI_nxt_hi (s : State) (v : Word) : (s.writeHI v).nxt.hi = v := rfl
@[simp] theorem writeHI_nxt_lo (s : State) (v : Word) : (s.writeHI v).nxt.lo = s.nxt.lo := rfl

/-! ## writeLO -/

@[simp] theorem writeLO_cur (s : State) (v : Word) : (s.writeLO v).cur = s.cur := rfl
@[simp] theorem writeLO_mem (s : State) (v : Word) : (s.writeLO v).mem = s.mem := rfl
@[simp] theorem writeLO_run (s : State) (v : Word) : (s.writeLO v).run = s.run := rfl
@[simp] theorem writeLO_events (s : State) (v : Word) : (s.writeLO v).events = s.events := rfl
@[simp] theorem writeLO_diags (s : State) (v : Word) : (s.writeLO v).diags = s.diags := rfl
@[simp] theorem writeLO_cycles (s : State) (v : Word) : (s.writeLO v).cycles = s.cycles := rfl
@[simp] theorem writeLO_params (s : State) (v : Word) : (s.writeLO v).params = s.params := rfl
@[simp] theorem writeLO_nxt_gpr (s : State) (v : Word) : (s.writeLO v).nxt.gpr = s.nxt.gpr := rfl
@[simp] theorem writeLO_nxt_pc (s : State) (v : Word) : (s.writeLO v).nxt.pc = s.nxt.pc := rfl
@[simp] theorem writeLO_nxt_hi (s : State) (v : Word) : (s.writeLO v).nxt.hi = s.nxt.hi := rfl
@[simp] theorem writeLO_nxt_lo (s : State) (v : Word) : (s.writeLO v).nxt.lo = v := rfl

/-! ## writeHiLo -/

@[simp] theorem writeHiLo_cur (s : State) (a b : Word) : (s.writeHiLo a b).cur = s.cur := rfl
@[simp] theorem writeHiLo_mem (s : State) (a b : Word) : (s.writeHiLo a b).mem = s.mem := rfl
@[simp] theorem writeHiLo_run (s : State) (a b : Word) : (s.writeHiLo a b).run = s.run := rfl
@[simp] theorem writeHiLo_events (s : State) (a b : Word) : (s.writeHiLo a b).events = s.events := rfl
@[simp] theorem writeHiLo_diags (s : State) (a b : Word) : (s.writeHiLo a b).diags = s.diags := rfl
@[simp] theorem writeHiLo_cycles (s : State) (a b : Word) : (s.writeHiLo a b).cycles = s.cycles := rfl
@[simp] theorem writeHiLo_params (s : State) (a b : Word) : (s.writeHiLo a b).params = s.params := rfl
@[simp] theorem writeHiLo_nxt_gpr (s : State) (a b : Word) : (s.writeHiLo a b).nxt.gpr = s.nxt.gpr := rfl
@[simp] theorem writeHiLo_nxt_pc (s : State) (a b : Word) : (s.writeHiLo a b).nxt.pc = s.nxt.pc := rfl
@[simp] theorem writeHiLo_nxt_hi (s : State) (a b : Word) : (s.writeHiLo a b).nxt.hi = a := rfl
@[simp] theorem writeHiLo_nxt_lo (s : State) (a b : Word) : (s.writeHiLo a b).nxt.lo = b := rfl

/-! ## emit -/

@[simp] theorem emit_cur (s : State) (e : Event) : (s.emit e).cur = s.cur := rfl
@[simp] theorem emit_mem (s : State) (e : Event) : (s.emit e).mem = s.mem := rfl
@[simp] theorem emit_run (s : State) (e : Event) : (s.emit e).run = s.run := rfl
@[simp] theorem emit_events (s : State) (e : Event) : (s.emit e).events = s.events ++ [e] := rfl
@[simp] theorem emit_diags (s : State) (e : Event) : (s.emit e).diags = s.diags := rfl
@[simp] theorem emit_cycles (s : State) (e : Event) : (s.emit e).cycles = s.cycles := rfl
@[simp] theorem emit_params (s : State) (e : Event) : (s.emit e).params = s.params := rfl
@[simp] theorem emit_nxt (s : State) (e : Event) : (s.emit e).nxt = s.nxt := rfl

/-! ## emitRunClear -/

@[simp] theorem emitRunClear_cur (s : State) : (s.emitRunClear).cur = s.cur := rfl
@[simp] theorem emitRunClear_mem (s : State) : (s.emitRunClear).mem = s.mem := rfl
@[simp] theorem emitRunClear_run (s : State) : (s.emitRunClear).run = false := rfl
@[simp] theorem emitRunClear_events (s : State) : (s.emitRunClear).events = s.events ++ [.runClear] := rfl
@[simp] theorem emitRunClear_diags (s : State) : (s.emitRunClear).diags = s.diags := rfl
@[simp] theorem emitRunClear_cycles (s : State) : (s.emitRunClear).cycles = s.cycles := rfl
@[simp] theorem emitRunClear_params (s : State) : (s.emitRunClear).params = s.params := rfl
@[simp] theorem emitRunClear_nxt (s : State) : (s.emitRunClear).nxt = s.nxt := rfl

/-! ## emitDiag -/

@[simp] theorem emitDiag_cur (s : State) (d : Diag) : (s.emitDiag d).cur = s.cur := rfl
@[simp] theorem emitDiag_mem (s : State) (d : Diag) : (s.emitDiag d).mem = s.mem := rfl
@[simp] theorem emitDiag_run (s : State) (d : Diag) : (s.emitDiag d).run = s.run := rfl
@[simp] theorem emitDiag_events (s : State) (d : Diag) : (s.emitDiag d).events = s.events ++ [.diag d] := rfl
@[simp] theorem emitDiag_diags (s : State) (d : Diag) : (s.emitDiag d).diags = s.diags ++ [d] := rfl
@[simp] theorem emitDiag_cycles (s : State) (d : Diag) : (s.emitDiag d).cycles = s.cycles := rfl
@[simp] theorem emitDiag_params (s : State) (d : Diag) : (s.emitDiag d).params = s.params := rfl
@[simp] theorem emitDiag_nxt (s : State) (d : Diag) : (s.emitDiag d).nxt = s.nxt := rfl

/-! ## begin -/

@[simp] theorem begin_cur (s : State) : (s.begin).cur = s.cur := rfl
@[simp] theorem begin_mem (s : State) : (s.begin).mem = s.mem := rfl
@[simp] theorem begin_run (s : State) : (s.begin).run = s.run := rfl
@[simp] theorem begin_events (s : State) : (s.begin).events = [] := rfl
@[simp] theorem begin_diags (s : State) : (s.begin).diags = s.diags := rfl
@[simp] theorem begin_cycles (s : State) : (s.begin).cycles = s.cycles := rfl
@[simp] theorem begin_params (s : State) : (s.begin).params = s.params := rfl
@[simp] theorem begin_nxt (s : State) : (s.begin).nxt = s.cur := rfl

/-! ## commit -/

@[simp] theorem commit_cur (s : State) : (s.commit).cur = s.nxt := rfl
@[simp] theorem commit_mem (s : State) : (s.commit).mem = s.mem := rfl
@[simp] theorem commit_run (s : State) : (s.commit).run = s.run := rfl
@[simp] theorem commit_events (s : State) : (s.commit).events = s.events := rfl
@[simp] theorem commit_diags (s : State) : (s.commit).diags = s.diags := rfl
@[simp] theorem commit_cycles (s : State) : (s.commit).cycles = s.cycles + 1 := rfl
@[simp] theorem commit_params (s : State) : (s.commit).params = s.params := rfl
@[simp] theorem commit_nxt (s : State) : (s.commit).nxt = s.nxt := rfl

/-! ## fetched -/

@[simp] theorem fetched_cur (s : State) (w : Word) : (s.fetched w).cur = s.cur := rfl
@[simp] theorem fetched_mem (s : State) (w : Word) : (s.fetched w).mem = s.mem := rfl
@[simp] theorem fetched_run (s : State) (w : Word) : (s.fetched w).run = s.run := rfl
@[simp] theorem fetched_events (s : State) (w : Word) : (s.fetched w).events = [.fetch s.cur.pc w] := rfl
@[simp] theorem fetched_diags (s : State) (w : Word) : (s.fetched w).diags = s.diags := rfl
@[simp] theorem fetched_cycles (s : State) (w : Word) : (s.fetched w).cycles = s.cycles := rfl
@[simp] theorem fetched_params (s : State) (w : Word) : (s.fetched w).params = s.params := rfl
@[simp] theorem fetched_nxt_gpr (s : State) (w : Word) : (s.fetched w).nxt.gpr = s.cur.gpr := rfl
@[simp] theorem fetched_nxt_pc (s : State) (w : Word) : (s.fetched w).nxt.pc = s.cur.pc + 4 := rfl
@[simp] theorem fetched_nxt_hi (s : State) (w : Word) : (s.fetched w).nxt.hi = s.cur.hi := rfl
@[simp] theorem fetched_nxt_lo (s : State) (w : Word) : (s.fetched w).nxt.lo = s.cur.lo := rfl

/-! ## Reads see the current snapshot and the parameters, so no write of an invocation changes them (R28) -/

theorem readGPR_congr {s t : State} (hc : t.cur = s.cur) (hp : t.params = s.params) (r : Reg) :
    t.readGPR r = s.readGPR r := by
  simp only [State.readGPR, hc, hp]

/-- Where register 0 is hardwired it reads 0 (R129). -/
theorem readGPR_zero_hardwired (s : State) (h : s.params.hardwireR0 = true) : s.readGPR 0 = 0 := by
  simp [State.readGPR, h]

/-- Every other read is the current register (R129). -/
theorem readGPR_plain (s : State) (r : Reg) (h : s.params.hardwireR0 = false ∨ r ≠ 0) :
    s.readGPR r = s.cur.gpr.get r := by
  rcases h with h | h <;> simp [State.readGPR, h]

@[simp] theorem readGPR_writeGPR (s : State) (q : Reg) (v : Word) (r : Reg) : (s.writeGPR q v).readGPR r = s.readGPR r :=
  readGPR_congr (by simp) (by simp) r
@[simp] theorem readGPR_writePC (s : State) (v : Word) (r : Reg) : (s.writePC v).readGPR r = s.readGPR r :=
  readGPR_congr (by simp) (by simp) r
@[simp] theorem readGPR_writeHI (s : State) (v : Word) (r : Reg) : (s.writeHI v).readGPR r = s.readGPR r :=
  readGPR_congr (by simp) (by simp) r
@[simp] theorem readGPR_writeLO (s : State) (v : Word) (r : Reg) : (s.writeLO v).readGPR r = s.readGPR r :=
  readGPR_congr (by simp) (by simp) r
@[simp] theorem readGPR_writeHiLo (s : State) (a b : Word) (r : Reg) : (s.writeHiLo a b).readGPR r = s.readGPR r :=
  readGPR_congr (by simp) (by simp) r
@[simp] theorem readGPR_emit (s : State) (e : Event) (r : Reg) : (s.emit e).readGPR r = s.readGPR r :=
  readGPR_congr (by simp) (by simp) r
@[simp] theorem readGPR_fetched (s : State) (w : Word) (r : Reg) : (s.fetched w).readGPR r = s.readGPR r :=
  readGPR_congr (by simp) (by simp) r
@[simp] theorem readGPR_begin (s : State) (r : Reg) : (s.begin).readGPR r = s.readGPR r :=
  readGPR_congr (by simp) (by simp) r

end Sys2Proof.Machine
end

