-- ==== Sys2Proof/Laws/Ops.lean ====
section
/-! SUPPORT. One lemma per shared operation that says everything it does: what it answers, and the frame of what it
answers. -/

namespace Sys2Proof.Machine

/-! ## The register writes, as the frames of Safety.lean say them -/

theorem writeGPR_onlyGpr (s : State) (d : Reg) (v : Word) : OnlyGpr s (s.writeGPR d v) d v :=
  ⟨fun r => writeGPR_nxt_get s d r v, by simp, by simp [HiLoSame], fun a => by simp, by simp [OutsideSame]⟩

theorem writeHiLo_onlyHiLo (s : State) (h l : Word) : OnlyHiLo s (s.writeHiLo h l) h l :=
  ⟨rfl, rfl, fun _ => rfl, rfl, fun _ => rfl, rfl, rfl, rfl, rfl, rfl, rfl⟩

theorem writeHI_onlyHiLo (s : State) (v : Word) : OnlyHiLo s (s.writeHI v) v s.nxt.lo :=
  ⟨rfl, rfl, fun _ => rfl, rfl, fun _ => rfl, rfl, rfl, rfl, rfl, rfl, rfl⟩

theorem writeLO_onlyHiLo (s : State) (v : Word) : OnlyHiLo s (s.writeLO v) s.nxt.hi v :=
  ⟨rfl, rfl, fun _ => rfl, rfl, fun _ => rfl, rfl, rfl, rfl, rfl, rfl, rfl⟩

theorem same_onlyHiLo (s : State) : OnlyHiLo s s s.nxt.hi s.nxt.lo :=
  ⟨rfl, rfl, fun _ => rfl, rfl, fun _ => rfl, rfl, rfl, rfl, rfl, rfl, rfl⟩

theorem writePC_onlyPC (s : State) (v : Word) : OnlyPC s (s.writePC v) v :=
  ⟨rfl, fun _ => rfl, ⟨rfl, rfl⟩, fun _ => rfl, rfl, rfl, rfl, rfl, rfl, rfl⟩

theorem same_onlyPC (s : State) : OnlyPC s s s.nxt.pc :=
  ⟨rfl, fun _ => rfl, ⟨rfl, rfl⟩, fun _ => rfl, rfl, rfl, rfl, rfl, rfl, rfl⟩

theorem branchIf_onlyPC (s : State) (c : Bool) (imm : BitVec 16) :
    OnlyPC s (s.branchIf c imm) (if c then s.branchTarget imm else s.nxt.pc) := by
  cases c
  · exact same_onlyPC s
  · exact writePC_onlyPC s _

/-- A link and a jump do not disturb each other (spec/43_r_control.md R181, spec/47_j_jump.md R261). -/
theorem writeGPR_writePC (s : State) (d : Reg) (v p : Word) :
    (s.writeGPR d v).writePC p = (s.writePC p).writeGPR d v := by
  by_cases h : s.params.hardwireR0 = true ∧ d = 0
  · simp [State.writeGPR, h]
  · rw [State.writeGPR, if_neg h, State.writeGPR, if_neg (by simpa using h)]
    rfl

theorem linkAndJump_only (s : State) (d : Reg) (v p : Word) :
    OnlyGprAndPC s ((s.writePC p).writeGPR d v) d v p :=
  ⟨fun r => writeGPR_nxt_get (s.writePC p) d r v, by simp, by simp [HiLoSame], fun a => by simp, by simp [OutsideSame]⟩

theorem writeGPR_gprAndPC (s : State) (d : Reg) (v : Word) : OnlyGprAndPC s (s.writeGPR d v) d v s.nxt.pc :=
  writeGPR_onlyGpr s d v

@[simp] theorem pcPlus4_eq (s : State) : s.pcPlus4 = s.cur.pc + 4 := rfl

/-! ## Memory requests -/

theorem memRead_admitted {s : State} {a : Word} (h : admits s.params.mem a 4 = true) :
    s.memRead a = some (s.mem.read32 s.params.mem.order a) := if_pos h

theorem memRead_declined {s : State} {a : Word} (h : admits s.params.mem a 4 = false) : s.memRead a = none := by
  simp [State.memRead, h]

theorem memRead_eq_some {s : State} {a v : Word} :
    s.memRead a = some v ↔ admits s.params.mem a 4 = true ∧ s.mem.read32 s.params.mem.order a = v := by
  unfold State.memRead
  split <;> simp_all

theorem memRead_eq_none {s : State} {a : Word} : s.memRead a = none ↔ admits s.params.mem a 4 = false := by
  unfold State.memRead
  split <;> simp_all

/-! ## Loads (spec/46_i_loadstore.md R240, R241) -/

theorem loadTo_admitted {s : State} {ea : Word} (rt : Reg) (f : Word → Word) (h : admits s.params.mem ea 4 = true) :
    s.loadTo rt ea f = .next ((s.emit (.load ea (s.mem.read32 s.params.mem.order ea))).writeGPR rt
      (f (s.mem.read32 s.params.mem.order ea))) := by
  simp only [State.loadTo, memRead_admitted h]

theorem loadTo_declined {s : State} {ea : Word} (rt : Reg) (f : Word → Word) (h : admits s.params.mem ea 4 = false) :
    s.loadTo rt ea f = .fault (.dataNotAdmitted ea) := by
  simp only [State.loadTo, memRead_declined h]

/-- Everything a load can answer. -/
theorem loadTo_cases (s : State) (rt : Reg) (ea : Word) (f : Word → Word) :
    (admits s.params.mem ea 4 = true ∧ s.loadTo rt ea f =
      .next ((s.emit (.load ea (s.mem.read32 s.params.mem.order ea))).writeGPR rt
        (f (s.mem.read32 s.params.mem.order ea)))) ∨
    (admits s.params.mem ea 4 = false ∧ s.loadTo rt ea f = .fault (.dataNotAdmitted ea)) := by
  cases h : admits s.params.mem ea 4
  · exact .inr ⟨rfl, loadTo_declined rt f h⟩
  · exact .inl ⟨rfl, loadTo_admitted rt f h⟩

/-- The whole effect of a load that is admitted. -/
theorem load_onlyLoaded (s : State) (rt : Reg) (ea d v : Word) :
    OnlyLoaded s ((s.emit (.load ea d)).writeGPR rt v) rt v ea d :=
  ⟨fun r => writeGPR_nxt_get (s.emit (.load ea d)) rt r v, by simp, by simp [HiLoSame], fun a => by simp, by simp, by simp,
    by simp, by simp, by simp, by simp⟩

/-! ## Stores (spec/20_memory.md R52, R68) -/

theorem storeTo_admitted {s : State} {ea : Word} (v : Word) {w : Width} (h : admits s.params.mem ea w.bytes = true) :
    s.storeTo ea v w = .next
      (({ s with mem := s.mem.write32 s.params.mem.order ea v w } : State).emit (.store ea v w)) := by
  simp only [State.storeTo, State.memWrite, h, if_true]

theorem storeTo_declined {s : State} {ea : Word} (v : Word) {w : Width} (h : admits s.params.mem ea w.bytes = false) :
    s.storeTo ea v w = .fault (.dataNotAdmitted ea) := by
  simp [State.storeTo, State.memWrite, h]

/-- Everything a store can answer. -/
theorem storeTo_cases (s : State) (ea v : Word) (w : Width) :
    (admits s.params.mem ea w.bytes = true ∧ s.storeTo ea v w = .next
      (({ s with mem := s.mem.write32 s.params.mem.order ea v w } : State).emit (.store ea v w))) ∨
    (admits s.params.mem ea w.bytes = false ∧ s.storeTo ea v w = .fault (.dataNotAdmitted ea)) := by
  cases h : admits s.params.mem ea w.bytes
  · exact .inr ⟨rfl, storeTo_declined v h⟩
  · exact .inl ⟨rfl, storeTo_admitted v h⟩

/-- The whole effect of a store that is admitted. -/
theorem store_onlyStored {s : State} (hm : s.mem.wf = true) (ea v : Word) (w : Width) :
    OnlyStored s (({ s with mem := s.mem.write32 s.params.mem.order ea v w } : State).emit (.store ea v w)) ea v w :=
  ⟨fun _ hk => Memory.read_write32_inside _ _ _ _ hm hk, fun a ha => Memory.read_write32_outside _ _ _ _ a _ ha,
    fun _ => rfl, rfl, ⟨rfl, rfl⟩, rfl, rfl, rfl, rfl, rfl, rfl⟩

/-! ## The invocation and the commit -/

theorem fetch_eq_some {s : State} {w : Word} :
    s.fetch = some w ↔ admits s.params.mem s.cur.pc 4 = true ∧ s.mem.read32 s.params.mem.order s.cur.pc = w :=
  memRead_eq_some

/-- What a step is when it fetches w: the word's effect, committed. -/
theorem step_of_fetches {s : State} {w : Word} (h : s.fetches w) :
    step s = match execWord w (s.fetched w) with
      | .next t => .next t.commit
      | .fault r => .fault r
      | .refused r => .refused r := by
  obtain ⟨hr, ha, hw⟩ := h
  cases hx : execWord w (s.fetched w) <;>
    simp only [step, driverCycle, hr, if_true, invoke, fetch_eq_some.2 ⟨ha, hw⟩, hx]

/-- What the word of an instruction does on the state its fetch left. -/
theorem execWord_instr {w : Word} {i : Instr} {s : State} (h : decode s.params.rLogic w = .instr i) :
    execWord w (s.fetched w) = exec i (s.fetched w) := by
  simp only [execWord, fetched_params, h]

/-- What an unknown word does on the state its fetch left. -/
theorem execWord_unknown {w : Word} {k : UnknownKind} {s : State} (h : decode s.params.rLogic w = .unknown k) :
    execWord w (s.fetched w) = .next ((s.fetched w).emitDiag { kind := k, pc := s.cur.pc, word := w }) := by
  simp only [execWord, fetched_params, h, execUnknown, fetched_cur]

/-- Everything a completed step is: a run flag that was set, an admitted fetch, and a word whose effect is committed. -/
theorem step_next {s t : State} (h : step s = .next t) :
    ∃ w u, s.fetches w ∧ execWord w (s.fetched w) = .next u ∧ t = u.commit := by
  by_cases hr : s.run = true
  · cases hf : s.fetch with
    | none => simp [step, driverCycle, hr, invoke, hf] at h
    | some w =>
      have hw : s.fetches w := ⟨hr, fetch_eq_some.1 hf⟩
      rw [step_of_fetches hw] at h
      cases hx : execWord w (s.fetched w) with
      | next u =>
        rw [hx] at h
        exact ⟨w, u, hw, hx, (Host.Outcome.next.inj h).symm⟩
      | fault r => rw [hx] at h; cases h
      | refused r => rw [hx] at h; cases h
  · simp [step, driverCycle, hr] at h

/-- The fetched word is unique. -/
theorem fetches_unique {s : State} {w w' : Word} (h : s.fetches w) (h' : s.fetches w') : w = w' :=
  h.2.2.symm.trans h'.2.2

end Sys2Proof.Machine
end

