-- ==== Sys2Proof/Laws/PerInstr.lean ====
section
/-! SUPPORT. Facts about each instruction as syntax, one lemma per constructor: the encoder sets no bit outside the bits
the instruction uses (spec/30_encoding.md R90). -/

namespace Sys2Proof.Laws

/-- An R-format word under a mask that keeps its pieces. -/
theorem wordR_and {rs rt rd : Reg} {shamt : BitVec 5} {funct : BitVec 6} {b c d e : BitVec 5} (mask : Word)
    (hmask : mask = (63#6 ++ b ++ c ++ d ++ e ++ 63#6 : BitVec (6 + 5 + 5 + 5 + 5 + 6))) (hb : regBits rs &&& b = regBits rs)
    (hc : regBits rt &&& c = regBits rt) (hd : regBits rd &&& d = regBits rd) (he : shamt &&& e = shamt) :
    wordR rs rt rd shamt funct &&& mask = wordR rs rt rd shamt funct := by
  have hf : ∀ x : BitVec 6, x &&& 63#6 = x := by decide
  have key : (Code.special ++ regBits rs ++ regBits rt ++ regBits rd ++ shamt ++ funct) &&&
      (63#6 ++ b ++ c ++ d ++ e ++ 63#6) =
      (Code.special ++ regBits rs ++ regBits rt ++ regBits rd ++ shamt ++ funct) := by
    rw [BitVec.and_append, BitVec.and_append, BitVec.and_append, BitVec.and_append, BitVec.and_append, hf, hf, hb, hc, hd, he]
  rw [hmask]
  exact key

/-- An I-format word under a mask that keeps its pieces. -/
theorem wordI_and {op : BitVec 6} {rs : Reg} {rt : BitVec 5} {imm : BitVec 16} {b c : BitVec 5} (mask : Word)
    (hmask : mask = (63#6 ++ b ++ c ++ 65535#16 : BitVec (6 + 5 + 5 + 16))) (hb : regBits rs &&& b = regBits rs)
    (hc : rt &&& c = rt) : wordI op rs rt imm &&& mask = wordI op rs rt imm := by
  have hf : ∀ x : BitVec 6, x &&& 63#6 = x := by decide
  have hi : imm &&& 65535#16 = imm := BitVec.and_allOnes
  have key : (op ++ regBits rs ++ rt ++ imm) &&& (63#6 ++ b ++ c ++ 65535#16) = (op ++ regBits rs ++ rt ++ imm) := by
    rw [BitVec.and_append, BitVec.and_append, BitVec.and_append, hf, hb, hc, hi]
  rw [hmask]
  exact key

/-- Any word under the full mask. -/
theorem word_and_full (w : Word) : w &&& 0xFFFFFFFF = w := BitVec.and_allOnes

/-- A 5-bit piece kept whole. -/
theorem keep (x : BitVec 5) : x &&& 31#5 = x := BitVec.and_allOnes

end Sys2Proof.Laws

namespace Sys2Proof.Laws.UsedBits

/-- The encoder writes zeros outside the bits an instruction uses. -/
def Statement (i : Instr) : Prop := encode i &&& i.usedMask = encode i

theorem add (rd rs rt : Reg) : Statement (.add rd rs rt) :=
  wordR_and (b := 31#5) (c := 31#5) (d := 31#5) (e := 0#5) _ rfl (keep _) (keep _) (keep _) (by decide)

theorem addu (rd rs rt : Reg) : Statement (.addu rd rs rt) :=
  wordR_and (b := 31#5) (c := 31#5) (d := 31#5) (e := 0#5) _ rfl (keep _) (keep _) (keep _) (by decide)

theorem sub (rd rs rt : Reg) : Statement (.sub rd rs rt) :=
  wordR_and (b := 31#5) (c := 31#5) (d := 31#5) (e := 0#5) _ rfl (keep _) (keep _) (keep _) (by decide)

theorem subu (rd rs rt : Reg) : Statement (.subu rd rs rt) :=
  wordR_and (b := 31#5) (c := 31#5) (d := 31#5) (e := 0#5) _ rfl (keep _) (keep _) (keep _) (by decide)

theorem sll (rd rt : Reg) (shamt : BitVec 5) : Statement (.sll rd rt shamt) :=
  wordR_and (b := 0#5) (c := 31#5) (d := 31#5) (e := 31#5) _ rfl (by decide) (keep _) (keep _) (keep _)

theorem srl (rd rt : Reg) (shamt : BitVec 5) : Statement (.srl rd rt shamt) :=
  wordR_and (b := 0#5) (c := 31#5) (d := 31#5) (e := 31#5) _ rfl (by decide) (keep _) (keep _) (keep _)

theorem sra (rd rt : Reg) (shamt : BitVec 5) : Statement (.sra rd rt shamt) :=
  wordR_and (b := 0#5) (c := 31#5) (d := 31#5) (e := 31#5) _ rfl (by decide) (keep _) (keep _) (keep _)

theorem sllv (rd rt rs : Reg) : Statement (.sllv rd rt rs) :=
  wordR_and (b := 31#5) (c := 31#5) (d := 31#5) (e := 0#5) _ rfl (keep _) (keep _) (keep _) (by decide)

theorem srlv (rd rt rs : Reg) : Statement (.srlv rd rt rs) :=
  wordR_and (b := 31#5) (c := 31#5) (d := 31#5) (e := 0#5) _ rfl (keep _) (keep _) (keep _) (by decide)

theorem srav (rd rt rs : Reg) : Statement (.srav rd rt rs) :=
  wordR_and (b := 31#5) (c := 31#5) (d := 31#5) (e := 0#5) _ rfl (keep _) (keep _) (keep _) (by decide)

theorem mult (rs rt : Reg) : Statement (.mult rs rt) :=
  wordR_and (b := 31#5) (c := 31#5) (d := 0#5) (e := 0#5) _ rfl (keep _) (keep _) (by decide) (by decide)

theorem multu (rs rt : Reg) : Statement (.multu rs rt) :=
  wordR_and (b := 31#5) (c := 31#5) (d := 0#5) (e := 0#5) _ rfl (keep _) (keep _) (by decide) (by decide)

theorem div (rs rt : Reg) : Statement (.div rs rt) :=
  wordR_and (b := 31#5) (c := 31#5) (d := 0#5) (e := 0#5) _ rfl (keep _) (keep _) (by decide) (by decide)

theorem divu (rs rt : Reg) : Statement (.divu rs rt) :=
  wordR_and (b := 31#5) (c := 31#5) (d := 0#5) (e := 0#5) _ rfl (keep _) (keep _) (by decide) (by decide)

theorem mfhi (rd : Reg) : Statement (.mfhi rd) :=
  wordR_and (b := 0#5) (c := 0#5) (d := 31#5) (e := 0#5) _ rfl (by decide) (by decide) (keep _) (by decide)

theorem mflo (rd : Reg) : Statement (.mflo rd) :=
  wordR_and (b := 0#5) (c := 0#5) (d := 31#5) (e := 0#5) _ rfl (by decide) (by decide) (keep _) (by decide)

theorem mthi (rs : Reg) : Statement (.mthi rs) :=
  wordR_and (b := 31#5) (c := 0#5) (d := 0#5) (e := 0#5) _ rfl (keep _) (by decide) (by decide) (by decide)

theorem mtlo (rs : Reg) : Statement (.mtlo rs) :=
  wordR_and (b := 31#5) (c := 0#5) (d := 0#5) (e := 0#5) _ rfl (keep _) (by decide) (by decide) (by decide)

theorem jr (rs : Reg) : Statement (.jr rs) :=
  wordR_and (b := 31#5) (c := 0#5) (d := 0#5) (e := 0#5) _ rfl (keep _) (by decide) (by decide) (by decide)

theorem jalr (rd rs : Reg) : Statement (.jalr rd rs) :=
  wordR_and (b := 31#5) (c := 0#5) (d := 31#5) (e := 0#5) _ rfl (keep _) (by decide) (keep _) (by decide)

theorem syscall : Statement .syscall :=
  wordR_and (b := 0#5) (c := 0#5) (d := 0#5) (e := 0#5) _ rfl (by decide) (by decide) (by decide) (by decide)

theorem beq (rs rt : Reg) (imm : BitVec 16) : Statement (.beq rs rt imm) :=
  word_and_full _

theorem bne (rs rt : Reg) (imm : BitVec 16) : Statement (.bne rs rt imm) :=
  word_and_full _

theorem blez (rs : Reg) (imm : BitVec 16) : Statement (.blez rs imm) :=
  wordI_and (b := 31#5) (c := 0#5) _ rfl (keep _) (by decide)

theorem bgtz (rs : Reg) (imm : BitVec 16) : Statement (.bgtz rs imm) :=
  wordI_and (b := 31#5) (c := 0#5) _ rfl (keep _) (by decide)

theorem bltz (rs : Reg) (imm : BitVec 16) : Statement (.bltz rs imm) :=
  word_and_full _

theorem bgez (rs : Reg) (imm : BitVec 16) : Statement (.bgez rs imm) :=
  word_and_full _

theorem bltzal (rs : Reg) (imm : BitVec 16) : Statement (.bltzal rs imm) :=
  word_and_full _

theorem bgezal (rs : Reg) (imm : BitVec 16) : Statement (.bgezal rs imm) :=
  word_and_full _

theorem addi (rt rs : Reg) (imm : BitVec 16) : Statement (.addi rt rs imm) :=
  word_and_full _

theorem addiu (rt rs : Reg) (imm : BitVec 16) : Statement (.addiu rt rs imm) :=
  word_and_full _

theorem slti (rt rs : Reg) (imm : BitVec 16) : Statement (.slti rt rs imm) :=
  word_and_full _

theorem sltiu (rt rs : Reg) (imm : BitVec 16) : Statement (.sltiu rt rs imm) :=
  word_and_full _

theorem andi (rt rs : Reg) (imm : BitVec 16) : Statement (.andi rt rs imm) :=
  word_and_full _

theorem ori (rt rs : Reg) (imm : BitVec 16) : Statement (.ori rt rs imm) :=
  word_and_full _

theorem xori (rt rs : Reg) (imm : BitVec 16) : Statement (.xori rt rs imm) :=
  word_and_full _

theorem lui (rt : Reg) (imm : BitVec 16) : Statement (.lui rt imm) :=
  wordI_and (b := 0#5) (c := 31#5) _ rfl (by decide) (keep _)

theorem lb (rt rs : Reg) (imm : BitVec 16) : Statement (.lb rt rs imm) :=
  word_and_full _

theorem lh (rt rs : Reg) (imm : BitVec 16) : Statement (.lh rt rs imm) :=
  word_and_full _

theorem lw (rt rs : Reg) (imm : BitVec 16) : Statement (.lw rt rs imm) :=
  word_and_full _

theorem lbu (rt rs : Reg) (imm : BitVec 16) : Statement (.lbu rt rs imm) :=
  word_and_full _

theorem lhu (rt rs : Reg) (imm : BitVec 16) : Statement (.lhu rt rs imm) :=
  word_and_full _

theorem sb (rt rs : Reg) (imm : BitVec 16) : Statement (.sb rt rs imm) :=
  word_and_full _

theorem sh (rt rs : Reg) (imm : BitVec 16) : Statement (.sh rt rs imm) :=
  word_and_full _

theorem sw (rt rs : Reg) (imm : BitVec 16) : Statement (.sw rt rs imm) :=
  word_and_full _

theorem j (target : BitVec 26) : Statement (.j target) :=
  word_and_full _

theorem jal (target : BitVec 26) : Statement (.jal target) :=
  word_and_full _

theorem and (rd rs rt : Reg) : Statement (.and rd rs rt) :=
  wordR_and (b := 31#5) (c := 31#5) (d := 31#5) (e := 0#5) _ rfl (keep _) (keep _) (keep _) (by decide)

theorem or (rd rs rt : Reg) : Statement (.or rd rs rt) :=
  wordR_and (b := 31#5) (c := 31#5) (d := 31#5) (e := 0#5) _ rfl (keep _) (keep _) (keep _) (by decide)

theorem xor (rd rs rt : Reg) : Statement (.xor rd rs rt) :=
  wordR_and (b := 31#5) (c := 31#5) (d := 31#5) (e := 0#5) _ rfl (keep _) (keep _) (keep _) (by decide)

theorem nor (rd rs rt : Reg) : Statement (.nor rd rs rt) :=
  wordR_and (b := 31#5) (c := 31#5) (d := 31#5) (e := 0#5) _ rfl (keep _) (keep _) (keep _) (by decide)

theorem slt (rd rs rt : Reg) : Statement (.slt rd rs rt) :=
  wordR_and (b := 31#5) (c := 31#5) (d := 31#5) (e := 0#5) _ rfl (keep _) (keep _) (keep _) (by decide)

theorem sltu (rd rs rt : Reg) : Statement (.sltu rd rs rt) :=
  wordR_and (b := 31#5) (c := 31#5) (d := 31#5) (e := 0#5) _ rfl (keep _) (keep _) (keep _) (by decide)

end Sys2Proof.Laws.UsedBits
end

