-- ==== Sys2Proof/Laws/Step.lean ====
section
/-! SUPPORT. What an instruction's meaning can do to the state, said once over all instructions. -/

namespace Sys2Proof.Machine

/-- What every meaning leaves alone and what it may add: no meaning writes the current snapshot (spec/10_state.md R28),
the parameters, the count or the collected diagnostics; memory keeps its form; at most one event is added, and the run
flag changes only by clearing (spec/40_cycle.md R125, R130). -/
structure Effect (s t : State) : Prop where
  cur : t.cur = s.cur
  params : t.params = s.params
  cycles : t.cycles = s.cycles
  diags : t.diags = s.diags
  memory : s.mem.wf = true → t.mem.wf = true
  outputs : (t.run = s.run ∧ (t.events = s.events ∨ (∃ a v, t.events = s.events ++ [.load a v]) ∨
      (∃ a v w, t.events = s.events ++ [.store a v w]))) ∨
    (t.run = false ∧ t.events = s.events ++ [.runClear])

theorem Effect.refl (s : State) : Effect s s :=
  ⟨rfl, rfl, rfl, rfl, id, .inl ⟨rfl, .inl rfl⟩⟩

theorem Effect.writeGPR {s t : State} (h : Effect s t) (r : Reg) (v : Word) : Effect s (t.writeGPR r v) :=
  ⟨by simpa using h.cur, by simpa using h.params, by simpa using h.cycles, by simpa using h.diags,
    by simpa using h.memory, by simpa using h.outputs⟩

theorem Effect.writePC {s t : State} (h : Effect s t) (v : Word) : Effect s (t.writePC v) :=
  ⟨h.cur, h.params, h.cycles, h.diags, h.memory, h.outputs⟩

theorem Effect.writeHI {s t : State} (h : Effect s t) (v : Word) : Effect s (t.writeHI v) :=
  ⟨h.cur, h.params, h.cycles, h.diags, h.memory, h.outputs⟩

theorem Effect.writeLO {s t : State} (h : Effect s t) (v : Word) : Effect s (t.writeLO v) :=
  ⟨h.cur, h.params, h.cycles, h.diags, h.memory, h.outputs⟩

theorem Effect.writeHiLo {s t : State} (h : Effect s t) (a b : Word) : Effect s (t.writeHiLo a b) :=
  (h.writeHI a).writeLO b

theorem Effect.branchIf {s t : State} (h : Effect s t) (c : Bool) (imm : BitVec 16) : Effect s (t.branchIf c imm) := by
  unfold State.branchIf
  split
  · exact h.writePC _
  · exact h

theorem Effect.linkIf {s t : State} (h : Effect s t) (c : Bool) : Effect s (t.linkIf c) := by
  unfold State.linkIf
  split
  · exact h.writeGPR _ _
  · exact h

theorem Effect.runClear (s : State) : Effect s s.emitRunClear :=
  ⟨rfl, rfl, rfl, rfl, id, .inr ⟨rfl, rfl⟩⟩

theorem Effect.load (s : State) (a v : Word) : Effect s (s.emit (.load a v)) :=
  ⟨rfl, rfl, rfl, rfl, id, .inl ⟨rfl, .inr (.inl ⟨a, v, rfl⟩)⟩⟩

theorem Effect.store (s : State) (o : ByteOrder) (a v : Word) (w : Width) :
    Effect s (({ s with mem := s.mem.write32 o a v w } : State).emit (.store a v w)) :=
  ⟨rfl, rfl, rfl, rfl, Memory.wf_write32 o a v w, .inl ⟨rfl, .inr (.inr ⟨a, v, w, rfl⟩)⟩⟩

theorem loadTo_effect {s t : State} {rt : Reg} {ea : Word} {f : Word → Word} (h : s.loadTo rt ea f = .next t) :
    Effect s t := by
  rcases loadTo_cases s rt ea f with ⟨-, h'⟩ | ⟨-, h'⟩ <;> rw [h'] at h
  · exact Host.Outcome.next.inj h ▸ (Effect.load s _ _).writeGPR _ _
  · cases h

theorem storeTo_effect {s t : State} {ea v : Word} {w : Width} (h : s.storeTo ea v w = .next t) : Effect s t := by
  rcases storeTo_cases s ea v w with ⟨-, h'⟩ | ⟨-, h'⟩ <;> rw [h'] at h
  · exact Host.Outcome.next.inj h ▸ Effect.store s _ _ _ _
  · cases h

/-- Everything any instruction can do to a state from which it completes. -/
theorem exec_effect {i : Instr} {s t : State} (h : exec i s = .next t) : Effect s t := by
  cases i
  case lb | lh | lw | lbu | lhu => exact loadTo_effect h
  case sb | sh | sw => exact storeTo_effect h
  case div =>
    simp only [exec, execDiv] at h
    split at h
    · exact Host.Outcome.next.inj h ▸ .refl s
    · split at h <;> exact Host.Outcome.next.inj h ▸ (Effect.refl s).writeHiLo _ _
  case divu =>
    simp only [exec, execDivu] at h
    split at h
    · exact Host.Outcome.next.inj h ▸ .refl s
    · exact Host.Outcome.next.inj h ▸ (Effect.refl s).writeHiLo _ _
  case syscall =>
    simp only [exec, execSyscall] at h
    split at h
    · exact Host.Outcome.next.inj h ▸ .runClear s
    · exact Host.Outcome.next.inj h ▸ .refl s
  case jr | j => exact Host.Outcome.next.inj h ▸ (Effect.refl s).writePC _
  case jalr => exact Host.Outcome.next.inj h ▸ ((Effect.refl s).writePC _).writeGPR _ _
  case jal => exact Host.Outcome.next.inj h ▸ ((Effect.refl s).writeGPR _ _).writePC _
  case beq | bne | blez | bgtz | bltz | bgez => exact Host.Outcome.next.inj h ▸ (Effect.refl s).branchIf _ _
  case bltzal | bgezal => exact Host.Outcome.next.inj h ▸ ((Effect.refl s).linkIf _).branchIf _ _
  case mult | multu => exact Host.Outcome.next.inj h ▸ (Effect.refl s).writeHiLo _ _
  case mthi => exact Host.Outcome.next.inj h ▸ (Effect.refl s).writeHI _
  case mtlo => exact Host.Outcome.next.inj h ▸ (Effect.refl s).writeLO _
  all_goals exact Host.Outcome.next.inj h ▸ (Effect.refl s).writeGPR _ _

end Sys2Proof.Machine
end

