-- ==== Sys2Proof/Tests/Slice0.lean ====
section
/-! SUPPORT. The model's own tests: ill-formed instructions, decoding of every constructor by a word written out from
30_encoding.md R82 to R84 and R91 to R94, one-step vectors of spec/95_test_vectors.md (the expected values are the
tables'), and a witness for the hypotheses of every obligation that has any. -/

namespace Sys2Proof.Tests

open Sys2Proof.Machine

/-! ## Small states and what a step does to them -/

/-- A state with the reset parameters, a PC and some registers set. -/
def start (pc : Word) (regs : List (Reg × Word)) : State :=
  State.boot Params.atReset (regs.foldl (fun x p => x.setGPR p.1 p.2) { Snapshot.atReset with pc := pc }) []

/-- The same with HI and LO set. -/
def withHiLo (s : State) (hi lo : Word) : State := { s with cur := { s.cur with hi := hi, lo := lo } }

/-- The same with bytes laid from an address on. -/
def withBytes (s : State) (a : Nat) : List Byte → State
  | [] => s
  | b :: l => withBytes { s with mem := s.mem.write a b } (a + 1) l

/-- The same under other parameters. -/
def withParams (s : State) (p : Params) : State := { s with params := p }

/-- The same where only some addresses exist. -/
def withRegions (s : State) (l : List Region) : State :=
  { s with params := { s.params with mem := { s.params.mem with regions := l } } }

/-- The state with a word as its next instruction. -/
def onWord (s : State) (w : Word) : State := s.withFetchWord 32 w.toNat

/-- The state with a word at its PC, whatever is admitted. -/
def placed (s : State) (w : Word) : State := s.placeWord w

/-- The next state of a step that completes. -/
def nextOf (s : State) : Option State :=
  match step s with
  | .next t => some t
  | .fault _ => none
  | .refused _ => none

/-- The fault of a step that is stuck. -/
def faultOf (s : State) : Option Fault :=
  match step s with
  | .fault r => some r
  | .next _ => none
  | .refused _ => none

/-- The refusal of a step that is refused. -/
def refusalOf (s : State) : Option Refusal :=
  match step s with
  | .refused r => some r
  | .next _ => none
  | .fault _ => none

/-- The step on a word completes in a state that passes a check. -/
def runs (s : State) (w : Word) (check : State → Bool) : Bool := (nextOf (onWord s w)).any check

/-- A general register of the committed snapshot. -/
def gpr (t : State) (r : Reg) : Word := t.cur.gpr.get r

/-- The four bytes at an address. -/
def bytes4 (t : State) (a : Nat) : List Byte :=
  [t.mem.read a, t.mem.read (a + 1), t.mem.read (a + 2), t.mem.read (a + 3)]

theorem next_of_any {s : State} {check : State → Bool} (h : (nextOf s).any check = true) :
    ∃ t, step s = .next t ∧ check t = true := by
  unfold nextOf at h
  cases hs : step s with
  | next t => rw [hs] at h; exact ⟨t, rfl, by simpa using h⟩
  | fault r => rw [hs] at h; cases h
  | refused r => rw [hs] at h; cases h

/-! ## WellFormed: the one check, R_LOGIC over the contested six (R94) -/

theorem test_contested_is_ill_formed_under_refuse :
    ([.and 1 2 3, .or 1 2 3, .xor 1 2 3, .nor 1 2 3, .slt 1 2 3, .sltu 1 2 3] : List Instr).all
      (fun i => !i.wellFormed .refuse && !i.wellFormed .diagnose && i.wellFormed .implement) = true := by decide

theorem test_core_instruction_is_well_formed_under_refuse : Instr.wellFormed .refuse (.add 1 2 3) = true := by decide

/-! ## Decoding, every constructor, from written-out words -/

theorem test_decode_add_and_subtract :
    decode .refuse (0b000000#6 ++ 0b01000#5 ++ 0b01001#5 ++ 0b01010#5 ++ 0b00000#5 ++ 0b100000#6) = .instr (.add 10 8 9) ∧
    decode .refuse (0b000000#6 ++ 0b01000#5 ++ 0b01001#5 ++ 0b01010#5 ++ 0b00000#5 ++ 0b100001#6) = .instr (.addu 10 8 9) ∧
    decode .refuse (0b000000#6 ++ 0b01000#5 ++ 0b01001#5 ++ 0b01010#5 ++ 0b00000#5 ++ 0b100010#6) = .instr (.sub 10 8 9) ∧
    decode .refuse (0b000000#6 ++ 0b01000#5 ++ 0b01001#5 ++ 0b01010#5 ++ 0b00000#5 ++ 0b100011#6) = .instr (.subu 10 8 9) := by decide

theorem test_decode_shifts :
    decode .refuse (0b000000#6 ++ 0b00000#5 ++ 0b01001#5 ++ 0b01010#5 ++ 0b11111#5 ++ 0b000000#6) = .instr (.sll 10 9 31) ∧
    decode .refuse (0b000000#6 ++ 0b00000#5 ++ 0b01001#5 ++ 0b01010#5 ++ 0b11111#5 ++ 0b000010#6) = .instr (.srl 10 9 31) ∧
    decode .refuse (0b000000#6 ++ 0b00000#5 ++ 0b01001#5 ++ 0b01010#5 ++ 0b11111#5 ++ 0b000011#6) = .instr (.sra 10 9 31) ∧
    decode .refuse (0b000000#6 ++ 0b01000#5 ++ 0b01001#5 ++ 0b01010#5 ++ 0b00000#5 ++ 0b000100#6) = .instr (.sllv 10 9 8) ∧
    decode .refuse (0b000000#6 ++ 0b01000#5 ++ 0b01001#5 ++ 0b01010#5 ++ 0b00000#5 ++ 0b000110#6) = .instr (.srlv 10 9 8) ∧
    decode .refuse (0b000000#6 ++ 0b01000#5 ++ 0b01001#5 ++ 0b01010#5 ++ 0b00000#5 ++ 0b000111#6) = .instr (.srav 10 9 8) := by decide

theorem test_decode_hi_and_lo :
    decode .refuse (0b000000#6 ++ 0b01000#5 ++ 0b01001#5 ++ 0b00000#5 ++ 0b00000#5 ++ 0b011000#6) = .instr (.mult 8 9) ∧
    decode .refuse (0b000000#6 ++ 0b01000#5 ++ 0b01001#5 ++ 0b00000#5 ++ 0b00000#5 ++ 0b011001#6) = .instr (.multu 8 9) ∧
    decode .refuse (0b000000#6 ++ 0b01000#5 ++ 0b01001#5 ++ 0b00000#5 ++ 0b00000#5 ++ 0b011010#6) = .instr (.div 8 9) ∧
    decode .refuse (0b000000#6 ++ 0b01000#5 ++ 0b01001#5 ++ 0b00000#5 ++ 0b00000#5 ++ 0b011011#6) = .instr (.divu 8 9) ∧
    decode .refuse (0b000000#6 ++ 0b00000#5 ++ 0b00000#5 ++ 0b01010#5 ++ 0b00000#5 ++ 0b010000#6) = .instr (.mfhi 10) ∧
    decode .refuse (0b000000#6 ++ 0b00000#5 ++ 0b00000#5 ++ 0b01010#5 ++ 0b00000#5 ++ 0b010010#6) = .instr (.mflo 10) ∧
    decode .refuse (0b000000#6 ++ 0b01000#5 ++ 0b00000#5 ++ 0b00000#5 ++ 0b00000#5 ++ 0b010001#6) = .instr (.mthi 8) ∧
    decode .refuse (0b000000#6 ++ 0b01000#5 ++ 0b00000#5 ++ 0b00000#5 ++ 0b00000#5 ++ 0b010011#6) = .instr (.mtlo 8) := by decide

theorem test_decode_control :
    decode .refuse (0b000000#6 ++ 0b11111#5 ++ 0b00000#5 ++ 0b00000#5 ++ 0b00000#5 ++ 0b001000#6) = .instr (.jr 31) ∧
    decode .refuse (0b000000#6 ++ 0b01000#5 ++ 0b00000#5 ++ 0b11111#5 ++ 0b00000#5 ++ 0b001001#6) = .instr (.jalr 31 8) ∧
    decode .refuse (0b000000#6 ++ 0b00000#5 ++ 0b00000#5 ++ 0b00000#5 ++ 0b00000#5 ++ 0b001100#6) = .instr (.syscall) := by decide

theorem test_decode_branches :
    decode .refuse (0b000100#6 ++ 0b01000#5 ++ 0b01001#5 ++ 0b0000000000000100#16) = .instr (.beq 8 9 4) ∧
    decode .refuse (0b000101#6 ++ 0b01000#5 ++ 0b01001#5 ++ 0b1111111111111111#16) = .instr (.bne 8 9 0xFFFF) ∧
    decode .refuse (0b000110#6 ++ 0b01000#5 ++ 0b00000#5 ++ 0b0000000000001000#16) = .instr (.blez 8 8) ∧
    decode .refuse (0b000111#6 ++ 0b01000#5 ++ 0b00000#5 ++ 0b0000000000001000#16) = .instr (.bgtz 8 8) ∧
    decode .refuse (0b000001#6 ++ 0b01000#5 ++ 0b00000#5 ++ 0b0000000000010000#16) = .instr (.bltz 8 16) ∧
    decode .refuse (0b000001#6 ++ 0b01000#5 ++ 0b00001#5 ++ 0b0000000000010000#16) = .instr (.bgez 8 16) ∧
    decode .refuse (0b000001#6 ++ 0b01000#5 ++ 0b10000#5 ++ 0b0000000000010000#16) = .instr (.bltzal 8 16) ∧
    decode .refuse (0b000001#6 ++ 0b11111#5 ++ 0b10001#5 ++ 0b0000000000010000#16) = .instr (.bgezal 31 16) := by decide

theorem test_decode_immediates :
    decode .refuse (0b001000#6 ++ 0b01000#5 ++ 0b01001#5 ++ 0b1000000000000000#16) = .instr (.addi 9 8 0x8000) ∧
    decode .refuse (0b001001#6 ++ 0b01000#5 ++ 0b01001#5 ++ 0b1111111111111111#16) = .instr (.addiu 9 8 0xFFFF) ∧
    decode .refuse (0b001010#6 ++ 0b01000#5 ++ 0b01001#5 ++ 0b0000000000000000#16) = .instr (.slti 9 8 0) ∧
    decode .refuse (0b001011#6 ++ 0b01000#5 ++ 0b01001#5 ++ 0b0000000000000001#16) = .instr (.sltiu 9 8 1) ∧
    decode .refuse (0b001100#6 ++ 0b01000#5 ++ 0b01001#5 ++ 0b1000000000000000#16) = .instr (.andi 9 8 0x8000) ∧
    decode .refuse (0b001101#6 ++ 0b01000#5 ++ 0b01001#5 ++ 0b1111111111111111#16) = .instr (.ori 9 8 0xFFFF) ∧
    decode .refuse (0b001110#6 ++ 0b01000#5 ++ 0b01000#5 ++ 0b0000000011111111#16) = .instr (.xori 8 8 0xFF) ∧
    decode .refuse (0b001111#6 ++ 0b00000#5 ++ 0b01001#5 ++ 0b1000000000000000#16) = .instr (.lui 9 0x8000) := by decide

theorem test_decode_loads_and_stores :
    decode .refuse (0b100000#6 ++ 0b01000#5 ++ 0b01001#5 ++ 0b0000000000000011#16) = .instr (.lb 9 8 3) ∧
    decode .refuse (0b100001#6 ++ 0b01000#5 ++ 0b01001#5 ++ 0b0000000000000000#16) = .instr (.lh 9 8 0) ∧
    decode .refuse (0b100011#6 ++ 0b01000#5 ++ 0b01001#5 ++ 0b1111111111111100#16) = .instr (.lw 9 8 0xFFFC) ∧
    decode .refuse (0b100100#6 ++ 0b01000#5 ++ 0b01001#5 ++ 0b0000000000000000#16) = .instr (.lbu 9 8 0) ∧
    decode .refuse (0b100101#6 ++ 0b01000#5 ++ 0b01001#5 ++ 0b0000000000000000#16) = .instr (.lhu 9 8 0) ∧
    decode .refuse (0b101000#6 ++ 0b01000#5 ++ 0b01001#5 ++ 0b0000000000000001#16) = .instr (.sb 9 8 1) ∧
    decode .refuse (0b101001#6 ++ 0b01000#5 ++ 0b01001#5 ++ 0b0000000000000010#16) = .instr (.sh 9 8 2) ∧
    decode .refuse (0b101011#6 ++ 0b01000#5 ++ 0b01001#5 ++ 0b0000000000000010#16) = .instr (.sw 9 8 2) := by decide

theorem test_decode_jumps :
    decode .refuse (0b000010#6 ++ 0b00000100000000000000010000#26) = .instr (.j 0x100010) ∧
    decode .refuse (0b000011#6 ++ 0b00000000000000110000000000#26) = .instr (.jal 0xC00) := by decide

theorem test_decode_contested :
    decode .implement (0b000000#6 ++ 0b01000#5 ++ 0b01001#5 ++ 0b01010#5 ++ 0b00000#5 ++ 0b100100#6) = .instr (.and 10 8 9) ∧
    decode .implement (0b000000#6 ++ 0b01000#5 ++ 0b01001#5 ++ 0b01010#5 ++ 0b00000#5 ++ 0b100101#6) = .instr (.or 10 8 9) ∧
    decode .implement (0b000000#6 ++ 0b01000#5 ++ 0b01001#5 ++ 0b01010#5 ++ 0b00000#5 ++ 0b100110#6) = .instr (.xor 10 8 9) ∧
    decode .implement (0b000000#6 ++ 0b00000#5 ++ 0b00000#5 ++ 0b01010#5 ++ 0b00000#5 ++ 0b100111#6) = .instr (.nor 10 0 0) ∧
    decode .implement (0b000000#6 ++ 0b01000#5 ++ 0b01001#5 ++ 0b01010#5 ++ 0b00000#5 ++ 0b101010#6) = .instr (.slt 10 8 9) ∧
    decode .implement (0b000000#6 ++ 0b00000#5 ++ 0b01001#5 ++ 0b01010#5 ++ 0b00000#5 ++ 0b101011#6) = .instr (.sltu 10 0 9) := by decide

/-- Unused fields are don't-care (R90), and the all-zero word is sll r0, r0, 0 (R95). -/
theorem test_decode_ignores_unused_fields :
    decode .refuse 0x01295040 = .instr (.sll 10 9 1) ∧ decode .refuse 0x03FFFFCC = .instr .syscall ∧
    decode .refuse 0x19090008 = .instr (.blez 8 8) ∧ decode .refuse 0x3D091234 = .instr (.lui 9 0x1234) ∧
    decode .refuse 0x00000000 = .instr (.sll 0 0 0) := by decide

/-- The extractor's worked examples (95_test_vectors.md S8 and section 2.1). -/
theorem test_fields :
    fields 0x8D090004 = ⟨0x23, 8, 9, 0, 0, 4, 4, 4, 0x1090004⟩ ∧
    fields 0x21098000 = ⟨8, 8, 9, 0x10, 0, 0, 0x8000, 0xFFFF8000, 0x1098000⟩ := by decide

/-! ## One step of every instruction (95_test_vectors.md section 2; D is 10000000) -/

theorem test_add_wraps : runs (start 0x1000 [(8, 0x7FFFFFFF), (9, 0x1)]) 0x01095020
    (fun t => gpr t 10 == 0x80000000) = true := by decide

theorem test_add_to_register_zero : runs (start 0x1000 [(8, 0x2), (9, 0x3)]) 0x01090020
    (fun t => gpr t 0 == 0x5) = true := by decide

theorem test_addu_wraps : runs (start 0x1000 [(8, 0xFFFFFFFF), (9, 0x1)]) 0x01095021
    (fun t => gpr t 10 == 0x0 && t.cur.pc == 0x1004) = true := by decide

theorem test_sub_wraps : runs (start 0x1000 [(8, 0x7FFFFFFF), (9, 0xFFFFFFFF)]) 0x01095022
    (fun t => gpr t 10 == 0x80000000) = true := by decide

theorem test_subu_wraps : runs (start 0x1000 [(8, 0x80000000), (9, 0x1)]) 0x01095023
    (fun t => gpr t 10 == 0x7FFFFFFF) = true := by decide

theorem test_sll_by_31 : runs (start 0x1000 [(9, 0x1)]) 0x000957C0
    (fun t => gpr t 10 == 0x80000000) = true := by decide

theorem test_srl_by_31 : runs (start 0x1000 [(9, 0x80000000)]) 0x000957C2
    (fun t => gpr t 10 == 0x1) = true := by decide

theorem test_sra_by_31 : runs (start 0x1000 [(9, 0x80000000)]) 0x000957C3
    (fun t => gpr t 10 == 0xFFFFFFFF) = true := by decide

theorem test_sra_of_positive : runs (start 0x1000 [(9, 0x7FFFFFFF)]) 0x00095103
    (fun t => gpr t 10 == 0x07FFFFFF) = true := by decide

theorem test_sllv_by_32 : runs (start 0x1000 [(8, 0x20), (9, 0x1)]) 0x01095004
    (fun t => gpr t 10 == 0x1) = true := by decide

theorem test_srlv_by_low_five_bits : runs (start 0x1000 [(8, 0xFFFFFFFF), (9, 0x80000000)]) 0x01095006
    (fun t => gpr t 10 == 0x1) = true := by decide

theorem test_srav_by_32 : runs (start 0x1000 [(8, 0x20), (9, 0x80000000)]) 0x01095007
    (fun t => gpr t 10 == 0x80000000) = true := by decide

theorem test_srav_by_1 : runs (start 0x1000 [(8, 0x1), (9, 0x80000001)]) 0x01095007
    (fun t => gpr t 10 == 0xC0000000) = true := by decide

theorem test_mult_signed : runs (start 0x1000 [(8, 0xFFFFFFFF), (9, 0xFFFFFFFF)]) 0x01090018
    (fun t => t.cur.hi == 0x0 && t.cur.lo == 0x1) = true := by decide

theorem test_mult_negative : runs (start 0x1000 [(8, 0x7FFFFFFF), (9, 0xFFFFFFFF)]) 0x01090018
    (fun t => t.cur.hi == 0xFFFFFFFF && t.cur.lo == 0x80000001) = true := by decide

theorem test_multu_unsigned : runs (start 0x1000 [(8, 0xFFFFFFFF), (9, 0xFFFFFFFF)]) 0x01090019
    (fun t => t.cur.hi == 0xFFFFFFFE && t.cur.lo == 0x1) = true := by decide

theorem test_div_truncates : runs (start 0x1000 [(8, 0xFFFFFFF9), (9, 0x2)]) 0x0109001A
    (fun t => t.cur.hi == 0xFFFFFFFF && t.cur.lo == 0xFFFFFFFD) = true := by decide

theorem test_div_overflow : runs (start 0x1000 [(8, 0x80000000), (9, 0xFFFFFFFF)]) 0x0109001A
    (fun t => t.cur.hi == 0x0 && t.cur.lo == 0x80000000) = true := by decide

theorem test_divu_unsigned : runs (start 0x1000 [(8, 0xFFFFFFF9), (9, 0x2)]) 0x0109001B
    (fun t => t.cur.hi == 0x1 && t.cur.lo == 0x7FFFFFFC) = true := by decide

theorem test_divu_by_zero : runs (withHiLo (start 0x1000 [(8, 0x12345678)]) 0x11 0x22) 0x0109001B
    (fun t => t.cur.hi == 0x11 && t.cur.lo == 0x22) = true := by decide

theorem test_mfhi : runs (withHiLo (start 0x1000 []) 0xDEADBEEF 5) 0x00005010
    (fun t => gpr t 10 == 0xDEADBEEF) = true := by decide

theorem test_mflo : runs (withHiLo (start 0x1000 []) 5 0x01234567) 0x00005012
    (fun t => gpr t 10 == 0x01234567) = true := by decide

theorem test_mthi : runs (withHiLo (start 0x1000 [(8, 0xCAFEF00D)]) 0 5) 0x01000011
    (fun t => t.cur.hi == 0xCAFEF00D && t.cur.lo == 0x5) = true := by decide

theorem test_mtlo : runs (withHiLo (start 0x1000 [(8, 0xCAFEF00D)]) 5 0) 0x01000013
    (fun t => t.cur.hi == 0x5 && t.cur.lo == 0xCAFEF00D) = true := by decide

theorem test_jr_unchecked : runs (start 0x1000 [(8, 0x00400101)]) 0x01000008
    (fun t => t.cur.pc == 0x00400101) = true := by decide

theorem test_jalr_to_its_own_register : runs (start 0x1000 [(8, 0x00400100)]) 0x01004009
    (fun t => gpr t 8 == 0x1004 && t.cur.pc == 0x00400100) = true := by decide

theorem test_jalr_links : runs (start 0x1000 [(8, 0x00400100)]) 0x0100F809
    (fun t => gpr t 31 == 0x1004 && t.cur.pc == 0x00400100) = true := by decide

theorem test_syscall_exits : runs (start 0x1000 [(2, 0xA)]) 0x0000000C
    (fun t => !t.run && t.cur.pc == 0x1004) = true := by decide

theorem test_syscall_other_number : runs (start 0x1000 [(2, 0x1000000A)]) 0x0000000C
    (fun t => t.run && t.cur.pc == 0x1004) = true := by decide

theorem test_beq_taken : runs (start 0x1000 [(8, 0x5), (9, 0x5)]) 0x11090004
    (fun t => t.cur.pc == 0x1014) = true := by decide

theorem test_beq_backward : runs (start 0x1000 []) 0x10008000
    (fun t => t.cur.pc == 0xFFFE1004) = true := by decide

theorem test_bne_taken_backward : runs (start 0x1000 [(8, 0x5), (9, 0x6)]) 0x1509FFFF
    (fun t => t.cur.pc == 0x1000) = true := by decide

theorem test_bne_not_taken : runs (start 0x1000 [(8, 0x5), (9, 0x5)]) 0x1509FFFF
    (fun t => t.cur.pc == 0x1004) = true := by decide

theorem test_blez_zero : runs (start 0x1000 []) 0x19000008
    (fun t => t.cur.pc == 0x1024) = true := by decide

theorem test_blez_positive : runs (start 0x1000 [(8, 0x1)]) 0x19000008
    (fun t => t.cur.pc == 0x1004) = true := by decide

theorem test_bgtz_zero : runs (start 0x1000 []) 0x1D000008
    (fun t => t.cur.pc == 0x1004) = true := by decide

theorem test_bgtz_most_positive : runs (start 0x1000 [(8, 0x7FFFFFFF)]) 0x1D000008
    (fun t => t.cur.pc == 0x1024) = true := by decide

theorem test_bltz_minus_one : runs (start 0x1000 [(8, 0xFFFFFFFF)]) 0x05000010
    (fun t => t.cur.pc == 0x1044) = true := by decide

theorem test_bltz_zero : runs (start 0x1000 []) 0x05000010
    (fun t => t.cur.pc == 0x1004) = true := by decide

theorem test_bgez_zero : runs (start 0x1000 []) 0x05010010
    (fun t => t.cur.pc == 0x1044) = true := by decide

theorem test_bgez_negative : runs (start 0x1000 [(8, 0x80000000)]) 0x05010010
    (fun t => t.cur.pc == 0x1004) = true := by decide

theorem test_bltzal_taken : runs (start 0x1000 [(8, 0x80000000)]) 0x05100010
    (fun t => gpr t 31 == 0x1004 && t.cur.pc == 0x1044) = true := by decide

theorem test_bltzal_not_taken : runs (start 0x1000 [(8, 0x1)]) 0x05100010
    (fun t => gpr t 31 == 0x1004 && t.cur.pc == 0x1004) = true := by decide

theorem test_bgezal_reads_old_link : runs (start 0x1000 [(31, 0x10)]) 0x07F10010
    (fun t => gpr t 31 == 0x1004 && t.cur.pc == 0x1044) = true := by decide

theorem test_bgezal_not_taken_without_link : runs (withParams (start 0x1000 [(31, 0xFFFFFFF0)]) { Params.atReset with linkAlways := false }) 0x07F10010
    (fun t => gpr t 31 == 0xFFFFFFF0 && t.cur.pc == 0x1004) = true := by decide

theorem test_addi_wraps : runs (start 0x1000 [(8, 0x80000000)]) 0x21098000
    (fun t => gpr t 9 == 0x7FFF8000) = true := by decide

theorem test_addiu_sign_extends : runs (start 0x1000 []) 0x2509FFFF
    (fun t => gpr t 9 == 0xFFFFFFFF) = true := by decide

theorem test_slti_signed : runs (start 0x1000 [(8, 0x80000000)]) 0x29090000
    (fun t => gpr t 9 == 0x1) = true := by decide

theorem test_sltiu_sign_extends : runs (start 0x1000 [(8, 0x00008000)]) 0x2D098000
    (fun t => gpr t 9 == 0x1) = true := by decide

theorem test_sltiu_equal : runs (start 0x1000 [(8, 0xFFFFFFFF)]) 0x2D09FFFF
    (fun t => gpr t 9 == 0x0) = true := by decide

theorem test_andi_zero_extends : runs (start 0x1000 [(8, 0xFFFFFFFF)]) 0x31098000
    (fun t => gpr t 9 == 0x8000) = true := by decide

theorem test_ori_zero_extends : runs (start 0x1000 []) 0x3509FFFF
    (fun t => gpr t 9 == 0xFFFF) = true := by decide

theorem test_xori_in_place : runs (start 0x1000 [(8, 0x0F0F0F0F)]) 0x390800FF
    (fun t => gpr t 8 == 0x0F0F0FF0) = true := by decide

theorem test_lui_high_half : runs (start 0x1000 [(8, 0xFFFFFFFF)]) 0x3D091234
    (fun t => gpr t 9 == 0x12340000) = true := by decide

theorem test_lb_sign_extends : runs (withBytes (start 0x1000 [(8, 0x10000000)]) 0x10000000 [0x80]) 0x81090000
    (fun t => gpr t 9 == 0xFFFFFF80) = true := by decide

theorem test_lb_at_offset_3 : runs (withBytes (start 0x1000 [(8, 0x10000000)]) 0x10000003 [0xC3]) 0x81090003
    (fun t => gpr t 9 == 0xFFFFFFC3) = true := by decide

theorem test_lh_sign_extends : runs (withBytes (start 0x1000 [(8, 0x10000000)]) 0x10000000 [0x00, 0x80]) 0x85090000
    (fun t => gpr t 9 == 0xFFFF8000) = true := by decide

theorem test_lw_unaligned : runs (withBytes (start 0x1000 [(8, 0x10000000)]) 0x10000000 [0x78, 0x56, 0x34, 0x12, 0x9A]) 0x8D090001
    (fun t => gpr t 9 == 0x9A123456) = true := by decide

theorem test_lw_in_place : runs (withBytes (start 0x1000 [(8, 0x10000000)]) 0x10000000 [0x01, 0x00, 0x00, 0x20]) 0x8D080000
    (fun t => gpr t 8 == 0x20000001) = true := by decide

theorem test_lbu_zero_extends : runs (withBytes (start 0x1000 [(8, 0x10000000)]) 0x10000000 [0x80]) 0x91090000
    (fun t => gpr t 9 == 0x80) = true := by decide

theorem test_lhu_zero_extends : runs (withBytes (start 0x1000 [(8, 0x10000000)]) 0x10000000 [0x00, 0x80]) 0x95090000
    (fun t => gpr t 9 == 0x8000) = true := by decide

theorem test_sb_one_byte : runs (withBytes (start 0x1000 [(8, 0x10000000), (9, 0xAABBCCDD)]) 0x10000000 [0x11, 0x22, 0x33, 0x44]) 0xA1090001
    (fun t => bytes4 t 0x10000000 == [0x11, 0xDD, 0x33, 0x44]) = true := by decide

theorem test_sh_two_bytes : runs (withBytes (start 0x1000 [(8, 0x10000000), (9, 0xAABBCCDD)]) 0x10000000 [0x11, 0x22, 0x33, 0x44]) 0xA5090002
    (fun t => bytes4 t 0x10000000 == [0x11, 0x22, 0xDD, 0xCC]) = true := by decide

theorem test_sw_unaligned : runs (start 0x1000 [(8, 0x10000000), (9, 0xAABBCCDD)]) 0xAD090002
    (fun t => bytes4 t 0x10000002 == [0xDD, 0xCC, 0xBB, 0xAA]) = true := by decide

theorem test_j_keeps_the_region_of_the_pc : runs (start 0x0FFFFFFC []) 0x08000000
    (fun t => t.cur.pc == 0x0) = true := by decide

theorem test_jal_links : runs (start 0x2000 []) 0x0C000C00
    (fun t => gpr t 31 == 0x2004 && t.cur.pc == 0x3000) = true := by decide

theorem test_jal_link_wraps : runs (start 0xFFFFFFFC []) 0x0C000000
    (fun t => gpr t 31 == 0x0 && t.cur.pc == 0xF0000000) = true := by decide

theorem test_and : runs (start 0x1000 [(8, 0xFF00FF00), (9, 0x0FF00FF0)]) 0x01095024
    (fun t => gpr t 10 == 0x0F000F00) = true := by decide

theorem test_or : runs (start 0x1000 [(8, 0xFF00FF00), (9, 0x0FF00FF0)]) 0x01095025
    (fun t => gpr t 10 == 0xFFF0FFF0) = true := by decide

theorem test_xor : runs (start 0x1000 [(8, 0xFF00FF00), (9, 0x0FF00FF0)]) 0x01095026
    (fun t => gpr t 10 == 0xF0F0F0F0) = true := by decide

theorem test_nor : runs (start 0x1000 [(8, 0xFF00FF00), (9, 0x0FF00FF0)]) 0x01095027
    (fun t => gpr t 10 == 0x000F000F) = true := by decide

theorem test_slt_signed : runs (start 0x1000 [(8, 0xFFFFFFFF)]) 0x0109502A
    (fun t => gpr t 10 == 0x1) = true := by decide

theorem test_sltu_unsigned : runs (start 0x1000 [(8, 0xFFFFFFFF)]) 0x0109502B
    (fun t => gpr t 10 == 0x0) = true := by decide

/-! ## Words that are no instruction, and steps that stop (95_test_vectors.md sections 2.4 to 2.7, 2.9) -/

/-- S9: the three classes of unknown word each leave one diagnostic, with the code of R301. -/
theorem test_unknown_words_diagnose :
    runs (start 0x0040000C []) 0xFC000000
      (fun t => t.diags == [⟨.opcode, 0x0040000C, 0xFC000000⟩] && t.cur.pc == 0x00400010) = true ∧
    runs (start 0x00400000 []) 0x0000000D
      (fun t => t.ports.diag == some (2, 0x00400000, 0xD) && t.cur.pc == 0x00400004) = true ∧
    runs (start 0x1000 [(31, 7)]) 0x05120004
      (fun t => t.ports.diag == some (3, 0x1000, 0x05120004) && gpr t 31 == 7) = true := by decide

theorem test_contested_word_under_refuse_and_diagnose :
    refusalOf (onWord (withParams (start 0x00400000 []) { Params.atReset with rLogic := .refuse }) 0x01095024) =
      some (.contested 0x01095024) ∧
    runs (withParams (start 0x00400000 []) { Params.atReset with rLogic := .diagnose }) 0x01095024
      (fun t => t.diags == [⟨.funct, 0x00400000, 0x01095024⟩] && t.cur.pc == 0x00400004) = true := by decide

/-- With only the byte at D admitted a byte load is stuck (R241) and a byte store completes. -/
theorem test_stuck :
    faultOf (placed (withRegions (start 0x1000 [(8, 0x10000000)]) [⟨0x1000, 4⟩, ⟨0x10000000, 1⟩]) 0x81090000) =
      some (.dataNotAdmitted 0x10000000) ∧
    (nextOf (placed (withRegions (start 0x1000 [(8, 0x10000000)]) [⟨0x1000, 4⟩, ⟨0x10000000, 1⟩]) 0xA1090000)).isSome ∧
    faultOf (withRegions (start 0x1000 []) [⟨0x1000, 3⟩]) = some (.fetchNotAdmitted 0x1000) ∧
    (nextOf (onWord (start 0x1000 [(2, 10)]) 0x0000000C)).bind faultOf = some .halted := by decide

theorem test_hardwired_register_zero_drops_the_write :
    runs (withParams (start 0x1000 [(8, 2), (9, 3)]) { Params.atReset with hardwireR0 := true }) 0x01090020
      (fun t => t.readGPR 0 == 0 && gpr t 0 == 0) = true := by decide

/-- The same words under the big-endian collaborator that R55 names. -/
theorem test_big_endian_load_byte :
    runs (withBytes (withParams (start 0x1000 [(8, 0x10000000)])
        { Params.atReset with mem := { MemParams.atReset with order := .big } }) 0x10000000 [1, 2, 3, 4])
      0x81090000 (fun t => gpr t 9 == 4) = true := by decide
/-! ## Witnesses: a state and operands that meet the hypotheses of each obligation, one for each clause -/

theorem fetches_of {s : State} {w : Word}
    (h : (s.run && admits s.params.mem s.cur.pc 4 && s.mem.read32 s.params.mem.order s.cur.pc == w) = true) :
    s.fetches w := by
  simp only [Bool.and_eq_true, beq_iff_eq] at h
  exact ⟨h.1.1, h.1.2, h.2⟩

/-- The state fetches the word and the step completes. -/
def fetchesAndCompletes (s : State) (w : Word) : Bool :=
  s.run && admits s.params.mem s.cur.pc 4 && s.mem.read32 s.params.mem.order s.cur.pc == w && (nextOf s).isSome

theorem completes_of {s : State} {w : Word} (h : fetchesAndCompletes s w = true) :
    s.fetches w ∧ ∃ t, step s = .next t := by
  simp only [fetchesAndCompletes, Bool.and_eq_true] at h
  obtain ⟨t, ht, -⟩ := next_of_any (s := s) (check := fun _ => true) (by
    cases hs : nextOf s with
    | none => rw [hs] at h; exact absurd h.2 (by decide)
    | some t => rfl)
  exact ⟨fetches_of (by simpa only [Bool.and_eq_true] using h.1), t, ht⟩

/-- The step on a word from a state fetches that word and completes. -/
def Completes (s : State) (w : Word) : Prop := (onWord s w).fetches w ∧ ∃ t, step (onWord s w) = .next t

theorem completes {s : State} {w : Word} (h : fetchesAndCompletes (onWord s w) w = true) : Completes s w := completes_of h

theorem witness_DecodeInvertsEncode :
    Instr.wellFormed .refuse (.lw 31 0 0xFFFF) = true ∧ Instr.wellFormed .implement (.nor 31 0 31) = true ∧
    Instr.wellFormed .refuse (.nor 31 0 31) = false ∧ Instr.wellFormed .diagnose (.nor 31 0 31) = false := by decide

theorem witness_StepRunsTheDecodedInstruction :
    (onWord (start 0xFFFFFFFC []) 0x01095020).fetches 0x01095020 ∧
    decode (onWord (start 0xFFFFFFFC []) 0x01095020).params.rLogic 0x01095020 = .instr (.add 10 8 9) :=
  ⟨fetches_of (by decide), by decide⟩

theorem witness_UnknownWordsOnlyDiagnose :
    ((onWord (start 0 []) 0xFFFFFFFF).fetches 0xFFFFFFFF ∧ decode .implement 0xFFFFFFFF = .unknown .opcode) ∧
    ((onWord (start 0 []) 0x0000000D).fetches 0x0000000D ∧ decode .implement 0x0000000D = .unknown .funct) ∧
    ((onWord (start 0 []) 0x05120004).fetches 0x05120004 ∧ decode .implement 0x05120004 = .unknown .regimm) :=
  ⟨⟨fetches_of (by decide), by decide⟩, ⟨fetches_of (by decide), by decide⟩, ⟨fetches_of (by decide), by decide⟩⟩

/-- Each way of stopping happens: test_stuck and test_contested_word_under_refuse_and_diagnose give the outcomes. -/
theorem witness_StepsStopOnlyWhereTheSpecSays :
    (faultOf { start 0 [] with run := false } = some .halted) ∧
    (faultOf (withRegions (start 0xFFFFFFFF []) [⟨0xFFFFFFFF, 1⟩]) = some (.fetchNotAdmitted 0xFFFFFFFF)) ∧
    (faultOf (placed (withRegions (start 0 [(8, 4)]) [⟨0, 7⟩]) 0x8D090000) = some (.dataNotAdmitted 4)) := by decide

/-- A register jump, a jump, a taken and a not-taken branch, an unknown word, and the wrap at the top. -/
theorem witness_NextPCOfEveryStep :
    Completes (start 0xFFFFFFFC []) 0x01000008 ∧
    Completes (start 0xFFFFFFFC []) 0x0FFFFFFF ∧
    Completes (start 0xFFFFFFFC []) 0x10008000 ∧
    Completes (start 0xFFFFFFFC []) 0x15000000 ∧
    Completes (start 0xFFFFFFFC []) 0xFFFFFFFF ∧
    Completes (start 0xFFFFFFFC []) 0x00000000 :=
  ⟨completes (by decide), completes (by decide), completes (by decide), completes (by decide), completes (by decide), completes (by decide)⟩

/-- An instruction with another destination, one with none, an unknown word, and the hardwired register 0. -/
theorem witness_StepChangesOnlyTheDestinationRegister :
    (Completes (start 0x1000 []) 0x01095020 ∧ ∀ i, decode .implement 0x01095020 = .instr i → i.dest ≠ some 11) ∧
    (Completes (start 0x1000 []) 0x11090004 ∧ ∀ i, decode .implement 0x11090004 = .instr i → i.dest ≠ some 11) ∧
    (Completes (start 0x1000 []) 0xFFFFFFFF ∧ ∀ i, decode .implement 0xFFFFFFFF = .instr i → i.dest ≠ some 11) ∧
    Completes (withParams (start 0x1000 []) { Params.atReset with hardwireR0 := true }) 0x01090020 := by
  have h₁ : decode .implement 0x01095020 = .instr (.add 10 8 9) := by decide
  have h₂ : decode .implement 0x11090004 = .instr (.beq 8 9 4) := by decide
  have h₃ : decode .implement 0xFFFFFFFF = .unknown .opcode := by decide
  refine ⟨⟨completes (by decide), fun i hi => ?_⟩, ⟨completes (by decide), fun i hi => ?_⟩,
    ⟨completes (by decide), fun i hi => ?_⟩, completes (by decide)⟩
  · cases h₁.symm.trans hi; decide
  · cases h₂.symm.trans hi; decide
  · cases h₃.symm.trans hi

theorem witness_HiAndLoChangeOnlyOnTheirInstructions :
    Completes (withHiLo (start 0 []) 1 2) 0x00005010 ∧
    decode .implement 0x00005010 = .instr (.mfhi 10) ∧ Instr.writesHi (.mfhi 10) = false ∧
    Instr.writesLo (.mfhi 10) = false := ⟨completes (by decide), by decide⟩

/-- A load, a store across the top of the space, a register instruction, an unknown word. -/
theorem witness_MemoryRequestsOfAStep :
    Completes (start 0x1000 [(8, 0xFFFFFFFE)]) 0x8D090000 ∧
    Completes (start 0x1000 [(8, 0xFFFFFFFE)]) 0xAD090000 ∧
    Completes (start 0x1000 [(8, 0xFFFFFFFE)]) 0x01095020 ∧
    Completes (start 0x1000 [(8, 0xFFFFFFFE)]) 0xFFFFFFFF :=
  ⟨completes (by decide), completes (by decide), completes (by decide), completes (by decide)⟩

/-- A store to FFFFFFFE, and the first addresses outside it on both sides: 2 and FFFFFFFD. -/
theorem witness_MemoryChangesOnlyUnderAStore :
    Completes (start 0x1000 [(8, 0xFFFFFFFE)]) 0xAD090000 ∧
    dataEvents (onWord (start 0x1000 [(8, 0xFFFFFFFE)]) 0xAD090000) (.sw 9 8 0) = [.store 0xFFFFFFFE 0 .b32] ∧
    (∀ k, k < Width.b32.bytes → 2 ≠ byteAddr 0xFFFFFFFE k) ∧
    ∀ k, k < Width.b32.bytes → 0xFFFFFFFD ≠ byteAddr 0xFFFFFFFE k :=
  ⟨completes (by decide), by decide, by decide, by decide⟩

/-- A syscall with the exit code, one with another value, and a state whose run flag is clear. -/
theorem witness_RunFlagClearedOnlyByTheExitSyscall :
    (Completes (start 0 [(2, 10)]) 0x0000000C ∧ runs (start 0 [(2, 10)]) 0x0000000C (fun t => !t.run) = true) ∧
    (Completes (start 0 [(2, 11)]) 0x0000000C ∧ runs (start 0 [(2, 11)]) 0x0000000C (fun t => t.run) = true) ∧
    decode .implement 0x0000000C = .instr .syscall ∧ ({ start 0 [] with run := false } : State).run = false :=
  ⟨⟨completes (by decide), by decide⟩, ⟨completes (by decide), by decide⟩, by decide⟩

theorem witness_InstructionsReadOnlyCurrentAndWriteOnlyNext :
    (∃ t, exec (.bgezal 31 16) (start 0x1000 []) = .next t) ∧ (∃ t, exec (.div 8 9) (start 0x1000 []) = .next t) ∧
    ∃ t, exec (.sw 9 8 0) (start 0x1000 []) = .next t := ⟨⟨_, rfl⟩, ⟨_, rfl⟩, ⟨_, rfl⟩⟩

/-- For EveryStepIsOneInvocation and PortsShowAtMostOneDataAccess: a step with a diagnostic, a load, a store and an exit. -/
theorem witness_a_step_completes :
    Completes (start 0x1000 [(2, 10)]) 0xFFFFFFFF ∧
    Completes (start 0x1000 [(2, 10)]) 0x8D090000 ∧
    Completes (start 0x1000 [(2, 10)]) 0xAD090000 ∧
    Completes (start 0x1000 [(2, 10)]) 0x0000000C :=
  ⟨completes (by decide), completes (by decide), completes (by decide), completes (by decide)⟩

theorem witness_BootAndResetMeetTheInvariant : Memory.wf [(0, 1), (0xFFFFFFFF, 255)] = true := by decide

theorem witness_EveryStepKeepsTheInvariant :
    State.reset.Inv ∧ (onWord State.reset 0x0000000C).Inv ∧ Completes State.reset 0x0000000C :=
  ⟨⟨by decide, by decide, by decide, by decide, by decide⟩, ⟨by decide, by decide, by decide, by decide, by decide⟩,
    completes (by decide)⟩

theorem witness_RunsOnTheWholeSpaceAreSafe :
    State.reset.params.mem.regions = [Region.everything] ∧ State.reset.params.mem.alignedOnly = false ∧
    State.reset.params.rLogic ≠ .refuse := by decide

/-- A run that goes on, one that halts, one that is stuck and one that is refused, each after one step at most. -/
theorem witness_RunsEndHaltedStuckOrRefused :
    (∃ t, runFor 1 (onWord (start 0 []) 0x01095020) = .running t) ∧
    (∃ t, runFor 1 (onWord (start 0 [(2, 10)]) 0x0000000C) = .halted t) ∧
    (∃ t r, runFor 1 (withRegions (start 0 []) []) = .stuck t r) ∧
    ∃ t r, runFor 1 (onWord (withParams (start 0 []) { Params.atReset with rLogic := .refuse }) 0x01095024) =
      .refused t r :=
  ⟨⟨_, rfl⟩, ⟨_, rfl⟩, ⟨_, _, rfl⟩, ⟨_, _, rfl⟩⟩

/-- Also where the word wraps round the top of the space and nothing is admitted. -/
theorem witness_PlacedWordIsFetched :
    Memory.wf (withRegions (start 0xFFFFFFFE []) []).mem = true ∧
    ((withRegions (start 0xFFFFFFFE []) []).withFetchWord 32 0x01095020).fetches 0x01095020 :=
  ⟨by decide, fetches_of (by decide)⟩

theorem witness_RegisterZeroIsOrdinaryUnlessHardwired :
    (start 0 []).params.hardwireR0 = false ∧ (31 : Reg) ≠ 0 ∧
    (withParams (start 0 []) { Params.atReset with hardwireR0 := true }).params.hardwireR0 = true := by decide

/-- A halfword at FFFFFFFF: the first address past it, and its last byte, which wraps to address 0. -/
theorem witness_WriteChangesExactlyItsBytes :
    Memory.wf [(0xFFFFFFFF, 7)] = true ∧
    (∀ k, k < Width.b16.bytes → 1 ≠ ((0xFFFFFFFF : Word).toNat + k) % 2 ^ 32) ∧
    1 < Width.b16.bytes ∧ ((0xFFFFFFFF : Word).toNat + 1) % 2 ^ 32 = 0 ∧
    (Memory.write32 [(0xFFFFFFFF, 7)] .little 0xFFFFFFFF 0xDDCC .b16).read 0 = 0xDD := by decide

/-- The word and the mixed-width accesses at the top of the space, where they wrap. -/
theorem witness_WordReadsBackAsWritten :
    Memory.wf [(0, 1)] = true ∧
    Memory.read32 (Memory.write32 [(0, 1)] .little 0xFFFFFFFE 0x12345678 .b32) .little 0xFFFFFFFE = 0x12345678 ∧
    Memory.read32 (Memory.write32 [(0, 1)] .big 0xFFFFFFFE 0x12345678 .b32) .big 0xFFFFFFFE = 0x12345678 := by decide

theorem witness_MixedWidthAccessesAreLittleEndian :
    Memory.wf [(0, 1)] = true ∧ (3 : Nat) < 4 ∧
    Memory.read32 (Memory.write32 [(0, 1)] .little 0xFFFFFFFE 0x00008034 .b16) .little 0xFFFFFFFE = 0x00018034 := by decide

theorem witness_CanonicalMemoriesWithEqualReadsAreEqual :
    Memory.wf (Memory.write (Memory.write [] 8 1) 4 2) = true ∧ Memory.wf (Memory.write (Memory.write [] 4 2) 8 1) = true ∧
    Memory.write (Memory.write [] 8 1) 4 2 = Memory.write (Memory.write [] 4 2) 8 1 := by decide

theorem witness_StoreIsSeenByTheNextFetch :
    Memory.wf (onWord (start 0x1000 [(8, 0x1004), (9, 0x01095020)]) 0xAD090000).mem = true ∧
    (onWord (start 0x1000 [(8, 0x1004), (9, 0x01095020)]) 0xAD090000).runsInstr (.sw 9 8 0) ∧
    (onWord (start 0x1000 [(8, 0x1004), (9, 0x01095020)]) 0xAD090000).effAddr 8 0 = 0x1000 + 4 ∧
    ∃ t, step (onWord (start 0x1000 [(8, 0x1004), (9, 0x01095020)]) 0xAD090000) = .next t :=
  ⟨by decide, ⟨0xAD090000, fetches_of (by decide), by decide⟩, by decide, (completes_of (w := 0xAD090000) (by decide)).2⟩

/-- A zero divisor, the quotient that does not fit, and an ordinary one beside it. -/
theorem witness_DivideGivesQuotientAndRemainder :
    (start 0 [(8, 7)]).readGPR 9 = 0 ∧
    (((start 0 [(8, 0x80000000), (9, 0xFFFFFFFF)]).readGPR 8).toInt = -2 ^ 31 ∧
      ((start 0 [(8, 0x80000000), (9, 0xFFFFFFFF)]).readGPR 9).toInt = -1) ∧
    ((start 0 [(8, 0x80000000), (9, 1)]).readGPR 9 ≠ 0 ∧
      ¬(((start 0 [(8, 0x80000000), (9, 1)]).readGPR 8).toInt = -2 ^ 31 ∧
        ((start 0 [(8, 0x80000000), (9, 1)]).readGPR 9).toInt = -1)) := by decide

theorem witness_SyscallOnlyHalts :
    (start 0 [(2, 10)]).readGPR (start 0 [(2, 10)]).params.syscallReg = (start 0 [(2, 10)]).params.syscallExit ∧
    (start 0 [(2, 11)]).readGPR (start 0 [(2, 11)]).params.syscallReg ≠ (start 0 [(2, 11)]).params.syscallExit := by decide

/-- Both sides of the sign, 80000000 and 0, with REGIMM_LINK_ALWAYS true and false. -/
theorem witness_LinkingBranchesLinkByTheParameter :
    ((start 0 [(8, 0x80000000)]).readGPR 8).toInt < 0 ∧ ¬((start 0 []).readGPR 8).toInt < 0 ∧
    ((start 0 []).readGPR 8).toInt ≥ 0 ∧ ¬((start 0 [(8, 0x80000000)]).readGPR 8).toInt ≥ 0 ∧
    (start 0 []).params.linkAlways = true ∧
    (withParams (start 0 [(8, 0x80000000)]) { Params.atReset with linkAlways := false }).params.linkAlways = false ∧
    ¬((withParams (start 0 [(8, 0x80000000)]) { Params.atReset with linkAlways := false }).readGPR 8).toInt ≥ 0 ∧
    (withParams (start 0 []) { Params.atReset with linkAlways := false }).params.linkAlways = false ∧
    ¬((withParams (start 0 []) { Params.atReset with linkAlways := false }).readGPR 8).toInt < 0 := by decide

/-- A read that wraps at the top of the space. -/
theorem witness_AdmittedLoadsComplete :
    admits (start 0 []).params.mem ((start 0 []).effAddr 0 0xFFFF) 4 = true := by decide

/-- Each width where exactly its bytes exist. -/
theorem witness_AdmittedStoresComplete :
    (start 0 []).mem.wf = true ∧
    admits (withRegions (start 0 []) [⟨8, 1⟩]).params.mem ((withRegions (start 0 []) [⟨8, 1⟩]).effAddr 0 8) 1 = true ∧
    admits (withRegions (start 0 []) [⟨8, 2⟩]).params.mem ((withRegions (start 0 []) [⟨8, 2⟩]).effAddr 0 8) 2 = true ∧
    admits (withRegions (start 0 []) [⟨8, 4⟩]).params.mem ((withRegions (start 0 []) [⟨8, 4⟩]).effAddr 0 8) 4 = true := by
  decide

/-- Each width where the last of its bytes does not exist. -/
theorem witness_DeclinedAccessesAreStuck :
    admits (withRegions (start 0 []) [⟨8, 3⟩]).params.mem ((withRegions (start 0 []) [⟨8, 3⟩]).effAddr 0 8) 4 = false ∧
    admits (withRegions (start 0 []) [⟨8, 1⟩]).params.mem ((withRegions (start 0 []) [⟨8, 1⟩]).effAddr 0 8) 2 = false ∧
    admits (withRegions (start 0 []) [⟨9, 1⟩]).params.mem ((withRegions (start 0 []) [⟨9, 1⟩]).effAddr 0 8) 1 = false := by
  decide

theorem witness_DivisionByZeroIsSilent :
    ((onWord (start 0 [(8, 7)]) 0x0109001A).fetches 0x0109001A ∧ decode .implement 0x0109001A = .instr (.div 8 9)) ∧
    ((onWord (start 0 [(8, 7)]) 0x0109001B).fetches 0x0109001B ∧ decode .implement 0x0109001B = .instr (.divu 8 9)) ∧
    (onWord (start 0 [(8, 7)]) 0x0109001A).readGPR 9 = 0 ∧ (onWord (start 0 [(8, 7)]) 0x0109001B).readGPR 9 = 0 :=
  ⟨⟨fetches_of (by decide), by decide⟩, ⟨fetches_of (by decide), by decide⟩, by decide, by decide⟩

theorem runsInstr_of {s : State} {w : Word} {i : Instr}
    (h : (s.run && admits s.params.mem s.cur.pc 4 && s.mem.read32 s.params.mem.order s.cur.pc == w) = true)
    (hd : decode s.params.rLogic w = .instr i) : s.runsInstr i := ⟨w, fetches_of h, hd⟩

/-- mult, then the word w, at 1000. -/
def multThen (w : List Byte) : State := onWord (withBytes (start 0x1000 [(8, 7), (9, 0xFFFFFFFF)]) 0x1004 w) 0x01090018

/-- mult and then mfhi t2 or mflo t2, both steps completing. -/
theorem witness_ProductIsReadByTheNextInstruction :
    ((multThen [0x10, 0x50, 0, 0]).runsInstr (.mult 8 9) ∧ ∃ t, step (multThen [0x10, 0x50, 0, 0]) = .next t ∧
      (∃ u, step t = .next u) ∧ t.runsInstr (.mfhi 10) ∧ ¬(t.params.hardwireR0 = true ∧ (10 : Reg) = 0)) ∧
    ((multThen [0x12, 0x50, 0, 0]).runsInstr (.mult 8 9) ∧ ∃ t, step (multThen [0x12, 0x50, 0, 0]) = .next t ∧
      (∃ u, step t = .next u) ∧ t.runsInstr (.mflo 10) ∧ ¬(t.params.hardwireR0 = true ∧ (10 : Reg) = 0)) :=
  ⟨⟨runsInstr_of (w := 0x01090018) (by decide) (by decide), _, rfl, (completes_of (w := 0x00005010) (by decide)).2,
      runsInstr_of (w := 0x00005010) (by decide) (by decide), by decide⟩,
    ⟨runsInstr_of (w := 0x01090018) (by decide) (by decide), _, rfl, (completes_of (w := 0x00005012) (by decide)).2,
      runsInstr_of (w := 0x00005012) (by decide) (by decide), by decide⟩⟩

/-- jal 00003000 at 2000, with jr r31 at 3000. -/
def callAndReturn : State := onWord (withBytes (start 0x2000 []) 0x3000 [0x08, 0x00, 0xE0, 0x03]) 0x0C000C00

theorem witness_CallReturnsToTheInstructionAfterIt :
    callAndReturn.runsInstr (.jal 0xC00) ∧ ∃ t, step callAndReturn = .next t ∧ t.runsInstr (.jr 31) ∧
      ∃ u, step t = .next u :=
  ⟨runsInstr_of (w := 0x0C000C00) (by decide) (by decide), _, rfl, runsInstr_of (w := 0x03E00008) (by decide) (by decide),
    (completes_of (w := 0x03E00008) (by decide)).2⟩

theorem witness_OnlyRegisterJumpsMisalignThePC :
    Completes (start 0xFFFFFFFC []) 0x10008000 ∧ (0xFFFFFFFC : Word).toNat % 4 = 0 ∧
    ∀ rd rs, decode .implement 0x10008000 ≠ .instr (.jr rs) ∧ decode .implement 0x10008000 ≠ .instr (.jalr rd rs) := by
  have h : decode .implement 0x10008000 = .instr (.beq 0 0 0x8000) := by decide
  refine ⟨completes (by decide), by decide, fun rd rs => ?_⟩
  rw [h]
  exact ⟨nofun, nofun⟩

end Sys2Proof.Tests
end

section
/-! SUPPORT. The memory calls of a completed step (spec/20_memory.md R53): what each instruction adds to the events of
its invocation, said once over all instructions, and the statement about the whole step that follows from it. -/

namespace Sys2Proof.Machine

/-! ## The events of the shared operations -/

@[simp] theorem branchIf_events (s : State) (c : Bool) (imm : BitVec 16) : (s.branchIf c imm).events = s.events := by
  cases c <;> rfl

@[simp] theorem linkIf_events (s : State) (c : Bool) : (s.linkIf c).events = s.events := by
  unfold State.linkIf
  split
  · exact writeGPR_events ..
  · rfl

/-- A load that completes adds its one read (R241). -/
theorem loadTo_events {s t : State} {rt : Reg} {ea : Word} {f : Word → Word} (h : s.loadTo rt ea f = .next t) :
    t.events = s.events ++ [.load ea (s.mem.read32 s.params.mem.order ea)] := by
  obtain ⟨-, h'⟩ | ⟨-, h'⟩ := loadTo_cases s rt ea f <;> rw [h'] at h
  · obtain rfl := Host.Outcome.next.inj h
    simp
  · cases h

/-- A store that completes adds its one write, and no read (R52, R53). -/
theorem storeTo_events {s t : State} {ea v : Word} {w : Width} (h : s.storeTo ea v w = .next t) :
    t.events = s.events ++ [.store ea v w] := by
  obtain ⟨-, h'⟩ | ⟨-, h'⟩ := storeTo_cases s ea v w <;> rw [h'] at h
  · obtain rfl := Host.Outcome.next.inj h
    rfl
  · cases h

/-! ## The value a store passes, as a number (R52) -/

theorem zeroByte_eq_ofNat (v : Word) : zeroByte v = BitVec.ofNat 32 (v.toNat % 2 ^ 8) := by
  apply BitVec.eq_of_toNat_eq
  simp [zeroByte]

theorem zeroHalf_eq_ofNat (v : Word) : zeroHalf v = BitVec.ofNat 32 (v.toNat % 2 ^ 16) := by
  apply BitVec.eq_of_toNat_eq
  simp [zeroHalf]

/-! ## The table of data accesses -/

/-- The data accesses depend on the current snapshot, memory and the parameters only (R28). -/
theorem dataEvents_congr {s t : State} (hc : t.cur = s.cur) (hm : t.mem = s.mem) (hp : t.params = s.params)
    (i : Instr) : dataEvents t i = dataEvents s i := by
  cases i
  case lb | lh | lw | lbu | lhu | sb | sh | sw =>
    simp only [dataEvents, State.effAddr, readGPR_congr hc hp, hm, hp]
  all_goals rfl

@[simp] theorem dataEvents_fetched (s : State) (w : Word) (i : Instr) :
    dataEvents (s.fetched w) i = dataEvents s i :=
  dataEvents_congr rfl rfl rfl i

/-- Every data access is a memory call. -/
@[simp] theorem filter_isMemory_dataEvents (s : State) (i : Instr) :
    (dataEvents s i).filter Event.isMemory = dataEvents s i := by
  cases i <;> rfl

/-! ## What an instruction adds to the events -/

/-- Everything an instruction that completes adds to the events: the data accesses of the table, or the RunClear of the
exit syscall (20_memory.md R53, 40_cycle.md R130). -/
theorem exec_events {i : Instr} {s t : State} (h : exec i s = .next t) :
    t.events = s.events ++ dataEvents s i ∨
    (i = .syscall ∧ s.readGPR s.params.syscallReg = s.params.syscallExit ∧ t.events = s.events ++ [.runClear]) := by
  cases i
  case syscall =>
    simp only [exec, execSyscall] at h
    split at h <;> obtain rfl := Host.Outcome.next.inj h
    · exact .inr ⟨rfl, ‹_›, rfl⟩
    · exact .inl (List.append_nil _).symm
  all_goals left
  case lb | lh | lw | lbu | lhu => exact loadTo_events h
  case sb rt rs imm =>
    rw [storeTo_events h, zeroByte_eq_ofNat]
    rfl
  case sh rt rs imm =>
    rw [storeTo_events h, zeroHalf_eq_ofNat]
    rfl
  case sw => exact storeTo_events h
  all_goals refine Eq.trans ?_ (List.append_nil _).symm
  case div =>
    simp only [exec, execDiv] at h
    split at h
    · exact Host.Outcome.next.inj h ▸ rfl
    · split at h <;> exact Host.Outcome.next.inj h ▸ rfl
  case divu =>
    simp only [exec, execDivu] at h
    split at h <;> exact Host.Outcome.next.inj h ▸ rfl
  case mult | multu | mthi | mtlo | jr | j => exact Host.Outcome.next.inj h ▸ rfl
  case beq | bne | blez | bgtz | bltz | bgez => exact Host.Outcome.next.inj h ▸ branchIf_events ..
  case bltzal | bgezal => exact Host.Outcome.next.inj h ▸ (branchIf_events ..).trans (linkIf_events ..)
  -- What is left writes one general register: the ALU, mfhi, mflo, jalr and jal.
  all_goals exact Host.Outcome.next.inj h ▸ writeGPR_events ..

/-- The memory calls an instruction that completes adds are the data accesses of the table. -/
theorem exec_memoryCalls {i : Instr} {s t : State} (h : exec i s = .next t) :
    t.events.filter Event.isMemory = s.events.filter Event.isMemory ++ dataEvents s i := by
  obtain he | ⟨rfl, -, he⟩ := exec_events h
  · simp [he]
  · simp [he, Event.isMemory, dataEvents]

/-! ## The step -/

/-- A contested word is refused (R125). -/
theorem execWord_contested {w : Word} {s : State} (h : decode s.params.rLogic w = .contested) :
    execWord w (s.fetched w) = .refused (.contested w) := by
  simp only [execWord, fetched_params, h]

/-- Settles O11: the fetch leaves its one read32, and by exec_memoryCalls the decoded instruction adds the accesses of
dataEvents; an unknown word adds a diagnostic, which is no memory call, and a contested word does not complete. -/
theorem memoryRequestsOfAStep : Obligations.MemoryRequestsOfAStep := by
  intro s t w hw h
  obtain ⟨w', u, hw', hu, rfl⟩ := step_next h
  obtain rfl := fetches_unique hw hw'
  cases hd : decode s.params.rLogic w with
  | instr i =>
    rw [execWord_instr hd] at hu
    rw [commit_events, exec_memoryCalls hu, dataEvents_fetched]
    rfl
  | unknown k =>
    rw [execWord_unknown hd] at hu
    obtain rfl := Host.Outcome.next.inj hu
    rfl
  | contested =>
    rw [execWord_contested hd] at hu
    cases hu

end Sys2Proof.Machine
end

section
/-! SUPPORT. Noninterference (spec/10_state.md R28, spec/40_cycle.md R126, R127): every instruction is a patch, computed
without the next snapshot and the run flag, that is then laid on the state. Both statements of the family are read off
the patch. -/

namespace Sys2Proof.Machine

/-! ## Patches: what one instruction may write -/

/-- The writes of one instruction, each field none where nothing is written. -/
structure Patch where
  /-- The general register written, and its value (R126: at most one). -/
  gpr : Option (Reg × Word) := none
  /-- The value that replaces the fallthrough (R123). -/
  pc : Option Word := none
  /-- HI. -/
  hi : Option Word := none
  /-- LO. -/
  lo : Option Word := none
  /-- Memory after a store. -/
  mem : Option Memory := none
  /-- The event added to the invocation's; RunClear also clears the run flag (R130). -/
  event : Option Event := none

/-- The next snapshot with the patch laid on it. -/
def Patch.onNext (p : Patch) (n : Snapshot) : Snapshot :=
  { gpr := (p.gpr.elim n fun w => n.setGPR w.1 w.2).gpr
    pc := p.pc.getD n.pc, hi := p.hi.getD n.hi, lo := p.lo.getD n.lo }

/-- The state with the patch laid on it. -/
def Patch.apply (p : Patch) (x : State) : State :=
  { x with
    nxt := p.onNext x.nxt
    mem := p.mem.getD x.mem
    events := p.event.elim x.events fun e => x.events ++ [e]
    run := if p.event = some .runClear then false else x.run }

/-- What the patch writes to register r. -/
def Patch.gprAt (p : Patch) (r : Reg) : Option Word := p.gpr.bind fun w => if r = w.1 then some w.2 else none

theorem Patch.onNext_get (p : Patch) (n : Snapshot) (r : Reg) :
    (p.onNext n).gpr.get r = (p.gprAt r).getD (n.gpr.get r) := by
  unfold Patch.onNext Patch.gprAt
  cases p.gpr with
  | none => rfl
  | some w =>
    refine (Snapshot.setGPR_get n w.1 r w.2).trans ?_
    by_cases h : r = w.1 <;> simp [h]

/-- A patch writes at most one general register (R126). -/
theorem Patch.onNext_get_other (p : Patch) :
    ∃ d, ∀ n : Snapshot, ∀ r, r ≠ d → (p.onNext n).gpr.get r = n.gpr.get r := by
  cases h : p.gpr with
  | none => exact ⟨0, fun n r _ => by simp [Patch.onNext_get, Patch.gprAt, h]⟩
  | some w => exact ⟨w.1, fun n r hr => by simp [Patch.onNext_get, Patch.gprAt, h, hr]⟩

/-- One field of a patch laid on two values: both kept, or the same value in both. -/
theorem getD_kept_or_same {α : Type} (o : Option α) (a b : α) :
    (o.getD a = a ∧ o.getD b = b) ∨ o.getD b = o.getD a := by
  cases o with
  | none => exact .inl ⟨rfl, rfl⟩
  | some v => exact .inr rfl

theorem Patch.onNext_get_kept_or_same (p : Patch) (n m : Snapshot) (r : Reg) :
    ((p.onNext n).gpr.get r = n.gpr.get r ∧ (p.onNext m).gpr.get r = m.gpr.get r) ∨
      (p.onNext m).gpr.get r = (p.onNext n).gpr.get r := by
  simp only [Patch.onNext_get]
  exact getD_kept_or_same ..

/-- The register write of R128 as a field of a patch: nothing where register 0 is hardwired. -/
def State.gprPatch (x : State) (d : Reg) (v : Word) : Option (Reg × Word) :=
  if x.params.hardwireR0 = true ∧ d = 0 then none else some (d, v)

theorem writeGPR_apply {p : Patch} (hp : p.gpr = none) (x : State) (d : Reg) (v : Word) :
    (p.apply x).writeGPR d v = ({ p with gpr := x.gprPatch d v } : Patch).apply x := by
  obtain ⟨gpr, pc, hi, lo, mem, event⟩ := p
  obtain rfl : gpr = none := hp
  by_cases h : x.params.hardwireR0 = true ∧ d = 0
  · simp only [State.gprPatch, if_pos h]
    exact if_pos h
  · simp only [State.gprPatch, if_neg h]
    exact if_neg h

/-! ## Values and answers that do not depend on the next snapshot and the run flag -/

/-- The state with its next snapshot and its run flag replaced. -/
def State.withNxtRun (s : State) (n : Snapshot) (b : Bool) : State := { s with nxt := n, run := b }

/-- A value that is the same whatever the next snapshot and the run flag are (R28, R127). -/
def IgnoresNxtRun {α : Type} (v : State → α) : Prop := ∀ s n b, v (s.withNxtRun n b) = v s

/-- The outcome that lays a patch on x, or stops. -/
def patchOutcome (x : State) : Except Fault Patch → Host.Outcome State Fault Refusal
  | .ok p => .next (p.apply x)
  | .error r => .fault r

/-- An effect that is a patch, or a fault, found without the next snapshot and the run flag. -/
def AnswersByPatch (f : State → Host.Outcome State Fault Refusal) : Prop :=
  ∃ q : State → Except Fault Patch, IgnoresNxtRun q ∧ ∀ x, f x = patchOutcome x (q x)

namespace AnswersByPatch

variable {f g : State → Host.Outcome State Fault Refusal}

/-- A patch found from current, memory and the parameters. -/
theorem next {p : State → Patch} (hp : IgnoresNxtRun p) : AnswersByPatch fun x => .next ((p x).apply x) :=
  ⟨fun x => .ok (p x), fun s n b => congrArg Except.ok (hp s n b), fun _ => rfl⟩

theorem fault {r : State → Fault} (hr : IgnoresNxtRun r) : AnswersByPatch fun x => .fault (r x) :=
  ⟨fun x => .error (r x), fun s n b => congrArg Except.error (hr s n b), fun _ => rfl⟩

/-- A choice between two effects by a condition read from current, memory and the parameters. -/
theorem ifThenElse {c : State → Prop} [DecidablePred c] (hc : IgnoresNxtRun c) (hf : AnswersByPatch f)
    (hg : AnswersByPatch g) : AnswersByPatch fun x => if c x then f x else g x := by
  obtain ⟨p, hp, hfp⟩ := hf
  obtain ⟨q, hq, hgq⟩ := hg
  refine ⟨fun x => if c x then p x else q x, fun s n b => ?_, fun x => ?_⟩
  · simp only [hc s n b, hp s n b, hq s n b]
  · simp only [hfp x, hgq x, apply_ite (patchOutcome x)]

theorem of_eq (hf : AnswersByPatch f) (h : ∀ x, g x = f x) : AnswersByPatch g := by
  obtain ⟨q, hq, hfq⟩ := hf
  exact ⟨q, hq, fun x => (h x).trans (hfq x)⟩

/-! ## The shared operations -/

theorem same : AnswersByPatch fun x => .next x := next (p := fun _ => {}) fun _ _ _ => rfl

theorem writePC {v : State → Word} (hv : IgnoresNxtRun v) : AnswersByPatch fun x => .next (x.writePC (v x)) :=
  next (p := fun x => { pc := some (v x) }) fun s n b => by simp only [hv s n b]

theorem writeHI {v : State → Word} (hv : IgnoresNxtRun v) : AnswersByPatch fun x => .next (x.writeHI (v x)) :=
  next (p := fun x => { hi := some (v x) }) fun s n b => by simp only [hv s n b]

theorem writeLO {v : State → Word} (hv : IgnoresNxtRun v) : AnswersByPatch fun x => .next (x.writeLO (v x)) :=
  next (p := fun x => { lo := some (v x) }) fun s n b => by simp only [hv s n b]

theorem writeHiLo {h l : State → Word} (hh : IgnoresNxtRun h) (hl : IgnoresNxtRun l) :
    AnswersByPatch fun x => .next (x.writeHiLo (h x) (l x)) :=
  next (p := fun x => { hi := some (h x), lo := some (l x) }) fun s n b => by simp only [hh s n b, hl s n b]

theorem emitRunClear : AnswersByPatch fun x => .next x.emitRunClear :=
  next (p := fun _ => { event := some .runClear }) fun _ _ _ => rfl

/-- A register write after a patch that writes no general register. -/
theorem applyWriteGPR {p : State → Patch} (hp : IgnoresNxtRun p) (hg : ∀ x, (p x).gpr = none) (d : Reg)
    {v : State → Word} (hv : IgnoresNxtRun v) : AnswersByPatch fun x => .next (((p x).apply x).writeGPR d (v x)) :=
  (next (p := fun x => { p x with gpr := x.gprPatch d (v x) }) fun s n b => by
    simp only [hp s n b, hv s n b]
    rfl).of_eq fun x => congrArg _ (writeGPR_apply (hg x) x d (v x))

theorem writeGPR (d : Reg) {v : State → Word} (hv : IgnoresNxtRun v) :
    AnswersByPatch fun x => .next (x.writeGPR d (v x)) :=
  applyWriteGPR (p := fun _ => {}) (fun _ _ _ => rfl) (fun _ => rfl) d hv

/-- A jump with a link, as jalr writes it (R181). -/
theorem jumpAndLink (d : Reg) {t v : State → Word} (ht : IgnoresNxtRun t) (hv : IgnoresNxtRun v) :
    AnswersByPatch fun x => .next ((x.writePC (t x)).writeGPR d (v x)) :=
  applyWriteGPR (p := fun x => { pc := some (t x) }) (fun s n b => by simp only [ht s n b]) (fun _ => rfl) d hv

/-- A link with a jump, as jal writes it (R261). -/
theorem linkAndJump (d : Reg) {t v : State → Word} (ht : IgnoresNxtRun t) (hv : IgnoresNxtRun v) :
    AnswersByPatch fun x => .next ((x.writeGPR d (v x)).writePC (t x)) :=
  (jumpAndLink d ht hv).of_eq fun x => congrArg _ (writeGPR_writePC x d (v x) (t x))

theorem branchIf {c : State → Bool} (hc : IgnoresNxtRun c) (imm : BitVec 16) :
    AnswersByPatch fun x => .next (x.branchIf (c x) imm) :=
  (ifThenElse (c := fun x => c x = true) (fun s n b => by simp only [hc s n b])
    (writePC (v := fun x => x.branchTarget imm) fun _ _ _ => rfl) same).of_eq fun x => apply_ite _ _ _ _

/-- A linking branch: link and jump where taken, and where not taken the link alone or nothing (R207, R208). -/
theorem linkIf_branchIf {c : State → Bool} (hc : IgnoresNxtRun c) (imm : BitVec 16) :
    AnswersByPatch fun x => .next ((x.linkIf (c x)).branchIf (c x) imm) := by
  refine (ifThenElse (c := fun x => c x = true) (fun s n b => by simp only [hc s n b])
    (linkAndJump linkReg (t := fun x => x.branchTarget imm) (v := State.pcPlus4) (fun _ _ _ => rfl) fun _ _ _ => rfl)
    (ifThenElse (c := fun x => x.params.linkAlways = true) (fun _ _ _ => rfl)
      (writeGPR linkReg (v := State.pcPlus4) fun _ _ _ => rfl) same)).of_eq fun x => ?_
  cases h : c x
  · simp only [State.branchIf, State.linkIf, Bool.false_or, Bool.false_eq_true, if_false]
    exact apply_ite _ _ _ _
  · simp [State.branchIf, State.linkIf, State.branchTarget]

theorem loadTo (rt rs : Reg) (imm : BitVec 16) (extend : Word → Word) :
    AnswersByPatch fun x => x.loadTo rt (x.effAddr rs imm) extend := by
  refine (ifThenElse (c := fun x => admits x.params.mem (x.effAddr rs imm) 4 = true) (fun _ _ _ => rfl)
    (applyWriteGPR
      (p := fun x => { event := some (.load (x.effAddr rs imm) (x.mem.read32 x.params.mem.order (x.effAddr rs imm))) })
      (fun _ _ _ => rfl) (fun _ => rfl) rt
      (v := fun x => extend (x.mem.read32 x.params.mem.order (x.effAddr rs imm))) fun _ _ _ => rfl)
    (fault (r := fun x => .dataNotAdmitted (x.effAddr rs imm)) fun _ _ _ => rfl)).of_eq fun x => ?_
  obtain ⟨ha, h⟩ | ⟨ha, h⟩ := loadTo_cases x rt (x.effAddr rs imm) extend
  · rw [h, if_pos ha]
    rfl
  · rw [h, if_neg (by simp [ha])]

theorem storeTo (rs : Reg) (imm : BitVec 16) {v : State → Word} (hv : IgnoresNxtRun v) (w : Width) :
    AnswersByPatch fun x => x.storeTo (x.effAddr rs imm) (v x) w := by
  refine (ifThenElse (c := fun x => admits x.params.mem (x.effAddr rs imm) w.bytes = true) (fun _ _ _ => rfl)
    (next (p := fun x => { mem := some (x.mem.write32 x.params.mem.order (x.effAddr rs imm) (v x) w)
                           event := some (.store (x.effAddr rs imm) (v x) w) })
      fun s n b => by
        simp only [hv s n b]
        rfl)
    (fault (r := fun x => .dataNotAdmitted (x.effAddr rs imm)) fun _ _ _ => rfl)).of_eq fun x => ?_
  obtain ⟨ha, h⟩ | ⟨ha, h⟩ := storeTo_cases x (x.effAddr rs imm) (v x) w
  · rw [h, if_pos ha]
    rfl
  · rw [h, if_neg (by simp [ha])]

end AnswersByPatch

/-! ## Every instruction -/

open AnswersByPatch in
/-- Every instruction is one patch, or one fault, found from the current snapshot, memory and the parameters. -/
theorem exec_answersByPatch (i : Instr) : AnswersByPatch (exec i) := by
  cases i
  case lb rt rs imm | lh rt rs imm | lw rt rs imm | lbu rt rs imm | lhu rt rs imm => exact loadTo rt rs imm _
  case sb rt rs imm | sh rt rs imm | sw rt rs imm => exact storeTo rs imm (fun _ _ _ => rfl) _
  case div rs rt =>
    exact ifThenElse (c := fun x => x.readGPR rt = 0) (fun _ _ _ => rfl) same
      (ifThenElse (c := fun x => divOverflows (x.readGPR rs) (x.readGPR rt) = true) (fun _ _ _ => rfl)
        (writeHiLo (fun _ _ _ => rfl) fun _ _ _ => rfl) (writeHiLo (fun _ _ _ => rfl) fun _ _ _ => rfl))
  case divu rs rt =>
    exact ifThenElse (c := fun x => x.readGPR rt = 0) (fun _ _ _ => rfl) same
      (writeHiLo (fun _ _ _ => rfl) fun _ _ _ => rfl)
  case syscall =>
    exact ifThenElse (c := fun x => x.readGPR x.params.syscallReg = x.params.syscallExit) (fun _ _ _ => rfl)
      emitRunClear same
  case mult | multu => exact writeHiLo (fun _ _ _ => rfl) fun _ _ _ => rfl
  case mthi => exact writeHI fun _ _ _ => rfl
  case mtlo => exact writeLO fun _ _ _ => rfl
  case jr | j => exact writePC fun _ _ _ => rfl
  case jalr rd rs => exact jumpAndLink rd (fun _ _ _ => rfl) fun _ _ _ => rfl
  case jal => exact linkAndJump linkReg (fun _ _ _ => rfl) fun _ _ _ => rfl
  case beq | bne | blez | bgtz | bltz | bgez => exact branchIf (fun _ _ _ => rfl) _
  case bltzal | bgezal => exact linkIf_branchIf (fun _ _ _ => rfl) _
  -- What is left writes one general register: the ALU, mfhi and mflo.
  all_goals exact writeGPR _ fun _ _ _ => rfl

/-- An instruction that completes lays one patch on its state, and the same one whatever the next snapshot and the run
flag are. -/
theorem exec_next_patch {i : Instr} {s t : State} (h : exec i s = .next t) :
    ∃ p : Patch, t = p.apply s ∧ ∀ n b, exec i (s.withNxtRun n b) = .next (p.apply (s.withNxtRun n b)) := by
  obtain ⟨q, hq, hx⟩ := exec_answersByPatch i
  rw [hx] at h
  cases hp : q s with
  | ok p =>
    rw [hp] at h
    exact ⟨p, (Host.Outcome.next.inj h).symm, fun n b => by rw [hx, hq, hp]; rfl⟩
  | error r => rw [hp] at h; cases h

/-- Settles O15: the patch of exec_next_patch is laid on both next snapshots, so a field that it writes has its value in
both, and any other is kept in both. -/
theorem instructionsReadOnlyCurrentAndWriteOnlyNext : Obligations.InstructionsReadOnlyCurrentAndWriteOnlyNext := by
  intro i s t n h
  obtain ⟨p, rfl, hu⟩ := exec_next_patch h
  obtain ⟨d, hd⟩ := p.onNext_get_other
  exact ⟨rfl, rfl, rfl, rfl, ⟨d, hd s.nxt⟩, _, hu n s.run, rfl, rfl, rfl, p.onNext_get_kept_or_same s.nxt n,
    getD_kept_or_same .., getD_kept_or_same .., getD_kept_or_same ..⟩

/-! ## The invocation -/

/-- The outcome with the run flag of a completed invocation replaced by b, cleared where RunClear was emitted (R130). -/
def followRun (b : Bool) : Host.Outcome State Fault Refusal → Host.Outcome State Fault Refusal
  | .next t => .next { t with run := b && !t.events.contains .runClear }
  | .fault r => .fault r
  | .refused r => .refused r

/-- A patch clears the run flag exactly where it emits RunClear. -/
theorem Patch.apply_withRun (p : Patch) {x : State} (hx : .runClear ∉ x.events) (b : Bool) :
    p.apply (x.withNxtRun x.nxt b) = { p.apply x with run := b && !(p.apply x).events.contains .runClear } := by
  have hrun : (if p.event = some .runClear then false else b) = (b && !(p.apply x).events.contains .runClear) := by
    unfold Patch.apply
    cases p.event with
    | none => simp [hx]
    | some e => by_cases he : e = .runClear <;> simp [hx, he, eq_comm]
  rw [← hrun]
  rfl

/-- With the run flag replaced, an instruction has the same outcome, up to the run flag it leaves. -/
theorem exec_followRun (i : Instr) {x : State} (hx : .runClear ∉ x.events) (b : Bool) :
    exec i (x.withNxtRun x.nxt b) = followRun b (exec i x) := by
  obtain ⟨q, hq, hi⟩ := exec_answersByPatch i
  rw [hi, hi, hq]
  cases q x with
  | ok p => exact congrArg Host.Outcome.next (p.apply_withRun hx b)
  | error r => rfl

/-- The fetch copies current into next, so of the two replaced fields only the run flag is left after it (R29). -/
theorem fetched_withNxtRun (s : State) (n : Snapshot) (b : Bool) (w : Word) :
    (s.withNxtRun n b).fetched w = (s.fetched w).withNxtRun (s.fetched w).nxt b := rfl

/-- The outcome of a fetched word only follows the run flag: a diagnostic leaves the flag alone, and a contested word is
refused anyway. -/
theorem execWord_followRun (s : State) (n : Snapshot) (b : Bool) (w : Word) :
    execWord w ((s.withNxtRun n b).fetched w) = followRun b (execWord w (s.fetched w)) := by
  cases hd : decode s.params.rLogic w with
  | instr i =>
    rw [execWord_instr hd, execWord_instr (s := s.withNxtRun n b) hd, fetched_withNxtRun]
    exact exec_followRun i (by simp) b
  | unknown k =>
    rw [execWord_unknown hd, execWord_unknown (s := s.withNxtRun n b) hd, fetched_withNxtRun]
    simp [followRun, State.withNxtRun, State.emitDiag, State.emit]
  | contested => rw [execWord_contested hd, execWord_contested (s := s.withNxtRun n b) hd, followRun]

/-- Settles O14: neither the fetch nor, by execWord_followRun, the effect of the fetched word reads the next snapshot or
the run flag. -/
theorem invocationNeverReadsNextOrRunFlag : Obligations.InvocationNeverReadsNextOrRunFlag := by
  intro s n b
  change invoke (s.withNxtRun n b) = followRun b (invoke s)
  have hfetch : (s.withNxtRun n b).fetch = s.fetch := rfl
  unfold invoke
  rw [hfetch]
  cases s.fetch with
  | none => rfl
  | some w => exact execWord_followRun s n b w

end Sys2Proof.Machine
end

section
/-! SUPPORT. The J-format jumps (spec/47_j_jump.md): what a J-format word decodes to, and the jump target as its three
pieces in a row; and the statement about j that follows from them. -/

namespace Sys2Proof

/-- An opcode other than 0 and 1 is looked up in the opcode table (R89, R91). -/
theorem decodeFields_opcode (m : RLogic) {f : Fields} (hs : f.opcode ≠ Code.special) (hr : f.opcode ≠ Code.regimm) :
    decodeFields m f = decodeOpcode f := by
  rw [decodeFields, if_neg hs, if_neg hr]

/-- A J-format word whose opcode the opcode table lists is what its row builds (R84, R91). -/
theorem decode_wordJ (m : RLogic) {op : BitVec 6} {build : Fields → Instr} (target : BitVec 26)
    (hs : op ≠ Code.special) (hr : op ≠ Code.regimm) (hb : opcodeTable.lookup op = some build) :
    decode m (wordJ op target) = .instr (build (fields (wordJ op target))) := by
  have hop := (fields_wordJ op target).1
  rw [decode, decodeFields_opcode m (by rwa [hop]) (by rwa [hop]), decodeOpcode, hop, hb]

/-- Opcode 2 is j, with the low 26 bits as its field (R91, R260). -/
theorem decode_j (m : RLogic) (target : BitVec 26) : decode m (wordJ Code.j target) = .instr (.j target) := by
  rw [decode_wordJ m target (build := fun f => .j f.target26) (by decide) (by decide) rfl,
    (fields_wordJ Code.j target).2]

end Sys2Proof

namespace Sys2Proof.Machine

/-- A mask of four ones and 28 zeros, as the jump target's is, keeps bits 31:28 of a word and clears the rest (R87). -/
theorem and_regionMask (w : Word) {mask : Word} (hm : mask = 15#4 ++ 0#26 ++ 0#2) :
    w &&& mask = w.extractLsb' 28 4 ++ 0#26 ++ 0#2 := by
  have hpieces : w.extractLsb' 28 4 ++ w.extractLsb' 2 26 ++ w.extractLsb' 0 2 = w := by
    rw [extract_join w (by rfl), extract_join w (by rfl)]
    exact BitVec.extractLsb'_eq_self
  have hkept : (w.extractLsb' 28 4 ++ w.extractLsb' 2 26 ++ w.extractLsb' 0 2) &&& (15#4 ++ 0#26 ++ 0#2) =
      w.extractLsb' 28 4 ++ 0#26 ++ 0#2 := by
    have hones (x : BitVec 4) : x &&& 15#4 = x := BitVec.and_allOnes
    rw [BitVec.and_append, BitVec.and_append, hones, BitVec.and_zero, BitVec.and_zero]
  rw [hpieces] at hkept
  rw [hm]
  exact hkept

/-- The shifted field is the field between four and two zeros (R87). -/
theorem shifted_target (target : BitVec 26) : target.zeroExtend 32 <<< 2 = 0#4 ++ target ++ 0#2 := by
  have hfield : target.toNat < 2 ^ 26 := target.isLt
  have hpieces : (0#4 ++ target ++ 0#2).toNat = 4 * target.toNat := by
    rw [BitVec.toNat_append, BitVec.toNat_append]
    simp [Nat.shiftLeft_eq, Nat.mul_comm]
  have hshift : (target.zeroExtend 32 <<< 2).toNat = 4 * target.toNat := by
    rw [BitVec.toNat_shiftLeft, BitVec.toNat_setWidth, Nat.shiftLeft_eq]
    omega
  exact BitVec.eq_of_toNat_eq (hshift.trans hpieces.symm)

/-- The masked and shifted form of the jump target is bits 31:28 of PC(current), the field and two zeros in a row (R87,
R260). -/
theorem jumpTarget_eq_append (s : State) (target : BitVec 26) :
    s.jumpTarget target = s.cur.pc.extractLsb' 28 4 ++ target ++ 0#2 := by
  have hor : (s.cur.pc.extractLsb' 28 4 ++ 0#26 ++ 0#2) ||| (0#4 ++ target ++ 0#2) =
      s.cur.pc.extractLsb' 28 4 ++ target ++ 0#2 := by
    rw [BitVec.or_append, BitVec.or_append, BitVec.or_zero, BitVec.zero_or, BitVec.or_self]
  rw [State.jumpTarget, and_regionMask _ (by rfl), shifted_target]
  exact hor

/-- j is one write of PC(next) (R260). -/
theorem exec_j (s : State) (target : BitVec 26) : exec (.j target) s = .next (s.writePC (s.jumpTarget target)) := rfl

/-- Settles O45: j is one write of PC(next), of the jump target, which jumpTarget_eq_append cuts into its pieces. -/
theorem jumpStaysInTheCurrentRegion : Obligations.JumpStaysInTheCurrentRegion :=
  ⟨decode_j, fun s target => ⟨_, _, exec_j s target, writePC_onlyPC s _, jumpTarget_eq_append s target⟩⟩

end Sys2Proof.Machine
end

section
/-! SUPPORT. Division by zero raises nothing (spec/60_exceptions.md R302): div and divu answer the state their fetch left,
and the step is that state committed. -/

namespace Sys2Proof.Machine

/-! ## The divisions by zero, which change nothing (R162, R163) -/

theorem exec_div_zero {s : State} {rs rt : Reg} (h : s.readGPR rt = 0) : exec (.div rs rt) s = .next s := if_pos h

theorem exec_divu_zero {s : State} {rs rt : Reg} (h : s.readGPR rt = 0) : exec (.divu rs rt) s = .next s := if_pos h

/-! ## The step -/

/-- A step whose decoded instruction completes is its effect on the fetched state, committed (R122 to R124). -/
theorem step_of_exec {s t : State} {w : Word} {i : Instr} (hw : s.fetches w)
    (hd : decode s.params.rLogic w = .instr i) (h : exec i (s.fetched w) = .next t) : step s = .next t.commit := by
  rw [step_of_fetches hw, execWord_instr hd, h]

/-- After the fetch the next snapshot is the current one with the fallthrough as its PC (R29, R123). -/
theorem fetched_nxt (s : State) (w : Word) : (s.fetched w).nxt = { s.cur with pc := s.cur.pc + 4 } := rfl

/-- Settles O48: either division by zero answers the fetched state, whose commit is the old snapshot with the PC advanced
and whose one event is the fetch. -/
theorem divisionByZeroIsSilent : Obligations.DivisionByZeroIsSilent := by
  intro s w rs rt hw hd hz
  have hz' : (s.fetched w).readGPR rt = 0 := (readGPR_fetched s w rt).trans hz
  have hstep : step s = .next (s.fetched w).commit := by
    rcases hd with hd | hd
    · exact step_of_exec hw hd (exec_div_zero hz')
    · exact step_of_exec hw hd (exec_divu_zero hz')
  exact ⟨_, hstep, fetched_nxt s w, fetched_mem s w, hw.1, fetched_events s w, fetched_diags s w⟩

end Sys2Proof.Machine
end

section
/-! SUPPORT. What a completed step is and what it leaves (spec/40_cycle.md R122 to R131): an inversion of the step, its
events and outputs, and the invariant that every step keeps. -/

namespace Sys2Proof.Machine

/-! ## The step inverted -/

/-- The state an unknown word leaves (R133). -/
def State.afterUnknown (s : State) (w : Word) (k : UnknownKind) : State :=
  ((s.fetched w).emitDiag { kind := k, pc := s.cur.pc, word := w }).commit

/-- An unknown word completes (R133). -/
theorem step_unknown {s : State} {w : Word} {k : UnknownKind} (hw : s.fetches w)
    (hd : decode s.params.rLogic w = .unknown k) : step s = .next (s.afterUnknown w k) := by
  rw [step_of_fetches hw, execWord_unknown hd]
  rfl

/-- A step on a known word that completes is its instruction's effect, committed, or one diagnostic. -/
theorem step_next_of_fetches {s t : State} {w : Word} (hw : s.fetches w) (h : step s = .next t) :
    (∃ i u, decode s.params.rLogic w = .instr i ∧ exec i (s.fetched w) = .next u ∧ t = u.commit) ∨
    (∃ k, decode s.params.rLogic w = .unknown k ∧ t = s.afterUnknown w k) := by
  obtain ⟨w', u, hw', hu, rfl⟩ := step_next h
  obtain rfl := fetches_unique hw hw'
  cases hd : decode s.params.rLogic w with
  | instr i => exact .inl ⟨i, u, rfl, execWord_instr hd ▸ hu, rfl⟩
  | unknown k =>
    rw [execWord_unknown hd] at hu
    exact .inr ⟨k, rfl, congrArg State.commit (Host.Outcome.next.inj hu).symm⟩
  | contested =>
    rw [execWord_contested hd] at hu
    cases hu

/-- Where a decoded instruction completes the step, its effect is known. -/
theorem step_instr {s t : State} {w : Word} {i : Instr} (hw : s.fetches w) (hd : decode s.params.rLogic w = .instr i)
    (h : step s = .next t) : ∃ u, exec i (s.fetched w) = .next u ∧ t = u.commit := by
  obtain ⟨j, u, hj, hu, rfl⟩ | ⟨k, hk, -⟩ := step_next_of_fetches hw h
  · obtain rfl := Decoded.instr.inj (hd.symm.trans hj)
    exact ⟨u, hu, rfl⟩
  · cases hd.symm.trans hk

/-! ## The outputs of a step -/

/-- What a step adds to its fetch: nothing, a load or a store, with the run flag and the diagnostics kept; RunClear, with
the run flag cleared; or a diagnostic, collected (R125, R130, R131). -/
inductive StepOutputs (s t : State) (f : Event) : Prop where
  | silent (events : t.events = [f]) (run : t.run = true) (diags : t.diags = s.diags)
  | load (a v : Word) (events : t.events = [f, .load a v]) (run : t.run = true) (diags : t.diags = s.diags)
  | store (a v : Word) (w : Width) (events : t.events = [f, .store a v w]) (run : t.run = true)
    (diags : t.diags = s.diags)
  | exit (events : t.events = [f, .runClear]) (run : t.run = false) (diags : t.diags = s.diags)
  | diag (d : Diag) (events : t.events = [f, .diag d]) (run : t.run = true) (diags : t.diags = s.diags ++ [d])

/-- Everything a completed step leaves beside the snapshots and the bytes of memory. -/
structure StepEffect (s t : State) : Prop where
  params : t.params = s.params
  cycles : t.cycles = s.cycles + 1
  snapshots : t.nxt = t.cur
  memory : s.mem.wf = true → t.mem.wf = true
  outputs : ∃ w, StepOutputs s t (.fetch s.cur.pc w)

theorem step_effect {s t : State} (h : step s = .next t) : StepEffect s t := by
  obtain ⟨w, -, hw, -, -⟩ := step_next h
  obtain ⟨i, u, -, hu, rfl⟩ | ⟨k, -, rfl⟩ := step_next_of_fetches hw h
  · obtain ⟨-, hp, hc, hd, hm, ho⟩ := exec_effect hu
    refine ⟨hp, congrArg (· + 1) hc, rfl, hm, w, ?_⟩
    obtain ⟨hr, he | ⟨a, v, he⟩ | ⟨a, v, x, he⟩⟩ | ⟨hr, he⟩ := ho
    · exact .silent he (hr.trans hw.1) hd
    · exact .load a v he (hr.trans hw.1) hd
    · exact .store a v x he (hr.trans hw.1) hd
    · exact .exit he hr hd
  · exact ⟨rfl, rfl, rfl, id, w, .diag _ rfl hw.1 rfl⟩

/-- The run flag is clear after a step exactly where RunClear is among its events (R130). -/
theorem step_run_iff {s t : State} (h : step s = .next t) : t.run = false ↔ Event.runClear ∈ t.events := by
  obtain ⟨w, ho⟩ := (step_effect h).outputs
  cases ho <;> simp [*]

/-- Settles O19: the five shapes of a step's outputs are shapes of one invocation's events; the rest of the invariant is
kept by step_effect. -/
theorem everyStepKeepsTheInvariant : Obligations.EveryStepKeepsTheInvariant := by
  intro s t hs h
  obtain ⟨-, hc, hn, hm, w, ho⟩ := step_effect h
  refine ⟨hm hs.memory, hn, ?_, step_run_iff h, ?_⟩
  · cases ho <;> simp only [*, eventsShaped]
  · have hlen := hs.diagnostics
    cases ho <;> simp only [*, List.length_append, List.length_singleton] <;> omega

/-- Settles O16, by step_effect. -/
theorem everyStepIsOneInvocation : Obligations.EveryStepIsOneInvocation := by
  intro s t h
  obtain ⟨hp, hc, -, -, w, ho⟩ := step_effect h
  refine ⟨hc, hp, ?_⟩
  cases ho
  case diag d _ _ hd => exact .inr ⟨d, hd⟩
  all_goals exact .inl ‹_›

/-- Settles O17: each of the five shapes of a step's outputs shows at most one access, and no diagnostic with RunClear. -/
theorem portsShowAtMostOneDataAccess : Obligations.PortsShowAtMostOneDataAccess := by
  intro s t h
  obtain ⟨w, ho⟩ := (step_effect h).outputs
  cases ho <;> simp [State.ports, List.findSome?, Event.fetchAddr, Event.loadAddr, Event.storeRequest, Event.diagnostic, *]

/-- Settles O18: at boot nothing has been emitted, and reset boots with no byte listed. -/
theorem bootAndResetMeetTheInvariant : Obligations.BootAndResetMeetTheInvariant := by
  have hboot (p : Params) (init : Snapshot) (mem : Memory) (h : mem.wf = true) : (State.boot p init mem).Inv :=
    ⟨h, rfl, rfl, by simp [State.boot], Nat.le_refl 0⟩
  exact ⟨hboot, hboot _ _ _ rfl⟩

/-- Settles O22: reset is a boot. -/
theorem resetHasNextEqualCurrentAndRunFlagSet : Obligations.ResetHasNextEqualCurrentAndRunFlagSet :=
  ⟨rfl, rfl, rfl, rfl⟩

/-- Settles O5: the step is the effect of the fetched word, which is exec of the decoded instruction, and the commit. -/
theorem stepRunsTheDecodedInstruction : Obligations.StepRunsTheDecodedInstruction := by
  intro s w i hw hd
  refine ⟨?_, rfl⟩
  rw [step_of_fetches hw, execWord_instr hd]
  rfl

/-- Settles O6, by step_unknown. -/
theorem unknownWordsOnlyDiagnose : Obligations.UnknownWordsOnlyDiagnose :=
  fun s w _ hw hd => ⟨_, step_unknown hw hd, fetched_nxt s w, fun _ => rfl, hw.1, rfl, rfl, rfl, rfl⟩

end Sys2Proof.Machine
end

section
/-! SUPPORT. The decoder against the encoder (spec/30_encoding.md R81 to R98): a word under a mask as conditions on its
fields, what the words of an instruction read as, and the classes of words. -/

namespace Sys2Proof

/-! ## Fields under a mask -/

@[simp] theorem fields_and_opcode (w x : Word) :
    (fields (w &&& x)).opcode = (fields w).opcode &&& x.extractLsb' 26 6 := BitVec.extractLsb'_and
@[simp] theorem fields_and_rs (w x : Word) : (fields (w &&& x)).rs = (fields w).rs &&& x.extractLsb' 21 5 :=
  BitVec.extractLsb'_and
@[simp] theorem fields_and_rt (w x : Word) : (fields (w &&& x)).rt = (fields w).rt &&& x.extractLsb' 16 5 :=
  BitVec.extractLsb'_and
@[simp] theorem fields_and_rd (w x : Word) : (fields (w &&& x)).rd = (fields w).rd &&& x.extractLsb' 11 5 :=
  BitVec.extractLsb'_and
@[simp] theorem fields_and_shamt (w x : Word) : (fields (w &&& x)).shamt = (fields w).shamt &&& x.extractLsb' 6 5 :=
  BitVec.extractLsb'_and
@[simp] theorem fields_and_funct (w x : Word) : (fields (w &&& x)).funct = (fields w).funct &&& x.extractLsb' 0 6 :=
  BitVec.extractLsb'_and
@[simp] theorem fields_and_imm16 (w x : Word) : (fields (w &&& x)).imm16 = (fields w).imm16 &&& x.extractLsb' 0 16 :=
  BitVec.extractLsb'_and
@[simp] theorem fields_and_target26 (w x : Word) :
    (fields (w &&& x)).target26 = (fields w).target26 &&& x.extractLsb' 0 26 := BitVec.extractLsb'_and

/-! A mask of ones keeps a field. -/

@[simp] theorem and_ones5 (x : BitVec 5) : x &&& 31#5 = x := BitVec.and_allOnes
@[simp] theorem and_ones6 (x : BitVec 6) : x &&& 63#6 = x := BitVec.and_allOnes
@[simp] theorem and_ones16 (x : BitVec 16) : x &&& 65535#16 = x := BitVec.and_allOnes
@[simp] theorem and_ones26 (x : BitVec 26) : x &&& 67108863#26 = x := BitVec.and_allOnes

@[simp] theorem regBits_zero : regBits 0 = 0#5 := rfl

/-- A word is an R-format word exactly when its six fields are that word's (R82). -/
theorem eq_wordR_iff {w : Word} {rs rt rd : Reg} {shamt : BitVec 5} {funct : BitVec 6} :
    w = wordR rs rt rd shamt funct ↔
      (fields w).opcode = Code.special ∧ (fields w).rs = regBits rs ∧ (fields w).rt = regBits rt ∧
      (fields w).rd = regBits rd ∧ (fields w).shamt = shamt ∧ (fields w).funct = funct := by
  refine ⟨fun h => h ▸ fields_wordR rs rt rd shamt funct, fun ⟨ho, hs, ht, hd, ha, hf⟩ => ?_⟩
  rw [word_eq_fieldsR w, ho, hs, ht, hd, ha, hf]
  rfl

/-- A word is an I-format word exactly when its four fields are that word's (R83). -/
theorem eq_wordI_iff {w : Word} {op : BitVec 6} {rs : Reg} {rt : BitVec 5} {imm : BitVec 16} :
    w = wordI op rs rt imm ↔
      (fields w).opcode = op ∧ (fields w).rs = regBits rs ∧ (fields w).rt = rt ∧ (fields w).imm16 = imm := by
  refine ⟨fun h => h ▸ fields_wordI op rs rt imm, fun ⟨ho, hs, ht, hi⟩ => ?_⟩
  rw [word_eq_fieldsI w, ho, hs, ht, hi]
  rfl

/-- A word is a J-format word exactly when its two fields are that word's (R84). -/
theorem eq_wordJ_iff {w : Word} {op : BitVec 6} {target : BitVec 26} :
    w = wordJ op target ↔ (fields w).opcode = op ∧ (fields w).target26 = target := by
  refine ⟨fun h => h ▸ fields_wordJ op target, fun ⟨ho, ht⟩ => ?_⟩
  rw [word_eq_fieldsJ w, ho, ht]
  rfl

/-! ## The three tables as branches of the decoder -/

theorem decode_special {m : RLogic} {w : Word} (h : (fields w).opcode = Code.special) :
    decode m w = decodeFunct m (fields w) := if_pos h

theorem decode_regimm {m : RLogic} {w : Word} (h : (fields w).opcode = Code.regimm) :
    decode m w = decodeRegimm (fields w) := by
  rw [decode, decodeFields, if_neg (by rw [h]; decide), if_pos h]

/-! ## What the words of an instruction read as -/

/-- What a word of the instruction reads as: the contested six by R_LOGIC (R94). -/
def Instr.reading (m : RLogic) (i : Instr) : Decoded := if i.isContested then decodeContested m i else .instr i

/-- The instruction is read exactly where it is well-formed (R94). -/
theorem reading_eq_instr_iff {m : RLogic} {i j : Instr} :
    i.reading m = .instr j ↔ i.wellFormed m = true ∧ i = j := by
  unfold Instr.reading Instr.wellFormed
  cases i.isContested <;> cases m <;> simp [decodeContested]

/-- Every row of the assigned funct values builds an instruction whose code and operands are the word's (R92). -/
theorem functTable_masked {w : Word} {row : BitVec 6 × (Fields → Instr)} (hrow : row ∈ functTable)
    (hop : (fields w).opcode = Code.special) (hfn : (fields w).funct = row.1) :
    w &&& (row.2 (fields w)).usedMask = encode (row.2 (fields w)) := by
  revert row
  simp [functTable, encode, Instr.usedMask, eq_wordR_iff, hop]

theorem contestedTable_masked {w : Word} {row : BitVec 6 × (Fields → Instr)} (hrow : row ∈ contestedTable)
    (hop : (fields w).opcode = Code.special) (hfn : (fields w).funct = row.1) :
    w &&& (row.2 (fields w)).usedMask = encode (row.2 (fields w)) := by
  revert row
  simp [contestedTable, encode, Instr.usedMask, eq_wordR_iff, hop]

theorem regimmTable_masked {w : Word} {row : BitVec 5 × (Fields → Instr)} (hrow : row ∈ regimmTable)
    (hop : (fields w).opcode = Code.regimm) (hrt : (fields w).rt = row.1) :
    w &&& (row.2 (fields w)).usedMask = encode (row.2 (fields w)) := by
  revert row
  simp [regimmTable, encode, Instr.usedMask, eq_wordI_iff, hop]

theorem opcodeTable_masked {w : Word} {row : BitVec 6 × (Fields → Instr)} (hrow : row ∈ opcodeTable)
    (hop : (fields w).opcode = row.1) :
    w &&& (row.2 (fields w)).usedMask = encode (row.2 (fields w)) := by
  revert row
  simp +contextual [opcodeTable, encode, Instr.usedMask, eq_wordI_iff, eq_wordJ_iff]

/-- A word that agrees with the word of an instruction on the bits the instruction uses reads as it (R90). -/
theorem decode_of_usedBits {m : RLogic} {w : Word} {i : Instr} (h : w &&& i.usedMask = encode i) :
    decode m w = i.reading m := by
  cases i
  case beq | bne | blez | bgtz | addi | addiu | slti | sltiu | andi | ori | xori | lui | lb | lh | lw | lbu | lhu | sb
      | sh | sw =>
    simp [encode, Instr.usedMask, eq_wordI_iff] at h
    simp [decode, decodeFields, decodeOpcode, opcodeTable, List.lookup, Instr.reading, Instr.isContested, h]
  case j | jal =>
    simp [encode, Instr.usedMask, eq_wordJ_iff] at h
    simp [decode, decodeFields, decodeOpcode, opcodeTable, List.lookup, Instr.reading, Instr.isContested, h]
  case bltz | bgez | bltzal | bgezal =>
    simp [encode, Instr.usedMask, eq_wordI_iff] at h
    simp [decode, decodeFields, decodeRegimm, regimmTable, List.lookup, Instr.reading, Instr.isContested, h]
  case and | or | xor | nor | slt | sltu =>
    simp [encode, Instr.usedMask, eq_wordR_iff] at h
    simp [decode, decodeFields, decodeFunct, functTable, contestedTable, List.lookup, Instr.reading, Instr.isContested,
      h]
  -- What is left has opcode 0 and an assigned funct value.
  all_goals
    simp [encode, Instr.usedMask, eq_wordR_iff] at h
    simp [decode, decodeFields, decodeFunct, functTable, List.lookup, Instr.reading, Instr.isContested, h]

/-! ## Lookup in the tables -/

section Lookup

variable {α β : Type} [BEq α] [LawfulBEq α]

theorem mem_of_lookup {l : List (α × β)} {k : α} {b : β} (h : l.lookup k = some b) : (k, b) ∈ l := by
  obtain ⟨l₁, l₂, rfl, -⟩ := List.lookup_eq_some_iff.1 h
  simp

theorem lookup_eq_none_iff_key {l : List (α × β)} {k : α} : l.lookup k = none ↔ k ∉ l.map Prod.fst := by
  simp only [List.lookup_eq_none_iff, List.mem_map, bne_iff_ne, not_exists, not_and]
  exact ⟨fun h p hp hk => h p hp hk.symm, fun h p hp hk => h p hp hk.symm⟩

theorem lookup_eq_some_of_key {l : List (α × β)} {k : α} (h : k ∈ l.map Prod.fst) : ∃ b, l.lookup k = some b := by
  cases hl : l.lookup k with
  | none => exact absurd h (lookup_eq_none_iff_key.1 hl)
  | some b => exact ⟨b, rfl⟩

end Lookup

/-- A word that reads as an instruction is one that a row of the tables builds, so it agrees with the word of some
instruction on the bits that one uses. -/
theorem usedBits_of_decode {m : RLogic} {w : Word} {j : Instr} (h : decode m w = .instr j) :
    ∃ i : Instr, w &&& i.usedMask = encode i := by
  by_cases hs : (fields w).opcode = Code.special
  · rw [decode_special hs, decodeFunct] at h
    split at h
    · exact ⟨_, functTable_masked (mem_of_lookup ‹_›) hs rfl⟩
    · split at h
      · exact ⟨_, contestedTable_masked (mem_of_lookup ‹_›) hs rfl⟩
      · cases h
  by_cases hr : (fields w).opcode = Code.regimm
  · rw [decode_regimm hr, decodeRegimm] at h
    split at h
    · exact ⟨_, regimmTable_masked (mem_of_lookup ‹_›) hr rfl⟩
    · cases h
  · rw [decode, decodeFields_opcode m hs hr, decodeOpcode] at h
    split at h
    · exact ⟨_, opcodeTable_masked (mem_of_lookup ‹_›) rfl⟩
    · cases h

/-- Settles O3: a word that agrees with encode i on the used bits reads as i, and a word that reads as an instruction
agrees with some instruction's word, which it then reads as. -/
theorem decodeReadsExactlyTheUsedBits : Obligations.DecodeReadsExactlyTheUsedBits := by
  intro m w i
  constructor
  · intro h
    obtain ⟨j, hj⟩ := usedBits_of_decode h
    obtain ⟨hwf, rfl⟩ := reading_eq_instr_iff.1 ((decode_of_usedBits hj).symm.trans h)
    exact ⟨hwf, hj⟩
  · rintro ⟨hwf, h⟩
    exact (decode_of_usedBits h).trans (reading_eq_instr_iff.2 ⟨hwf, rfl⟩)

open Laws in
/-- The encoder writes zeros outside the bits an instruction uses (R90). -/
theorem encode_and_usedMask : ∀ i : Instr, encode i &&& i.usedMask = encode i
  | .add a b c => UsedBits.add a b c
  | .addu a b c => UsedBits.addu a b c
  | .sub a b c => UsedBits.sub a b c
  | .subu a b c => UsedBits.subu a b c
  | .sll a b c => UsedBits.sll a b c
  | .srl a b c => UsedBits.srl a b c
  | .sra a b c => UsedBits.sra a b c
  | .sllv a b c => UsedBits.sllv a b c
  | .srlv a b c => UsedBits.srlv a b c
  | .srav a b c => UsedBits.srav a b c
  | .mult a b => UsedBits.mult a b
  | .multu a b => UsedBits.multu a b
  | .div a b => UsedBits.div a b
  | .divu a b => UsedBits.divu a b
  | .mfhi a => UsedBits.mfhi a
  | .mflo a => UsedBits.mflo a
  | .mthi a => UsedBits.mthi a
  | .mtlo a => UsedBits.mtlo a
  | .jr a => UsedBits.jr a
  | .jalr a b => UsedBits.jalr a b
  | .syscall => UsedBits.syscall
  | .blez a b => UsedBits.blez a b
  | .bgtz a b => UsedBits.bgtz a b
  | .lui a b => UsedBits.lui a b
  | .and a b c => UsedBits.and a b c
  | .or a b c => UsedBits.or a b c
  | .xor a b c => UsedBits.xor a b c
  | .nor a b c => UsedBits.nor a b c
  | .slt a b c => UsedBits.slt a b c
  | .sltu a b c => UsedBits.sltu a b c
  -- What is left uses every bit of its word.
  | .beq .. | .bne .. | .bltz .. | .bgez .. | .bltzal .. | .bgezal .. | .addi .. | .addiu .. | .slti .. | .sltiu ..
  | .andi .. | .ori .. | .xori .. | .lb .. | .lh .. | .lw .. | .lbu .. | .lhu .. | .sb .. | .sh .. | .sw .. | .j ..
  | .jal .. => word_and_full _

/-- The word of an instruction reads as it. -/
theorem decode_encode (m : RLogic) (i : Instr) : decode m (encode i) = i.reading m :=
  decode_of_usedBits (encode_and_usedMask i)

/-- What the word of an instruction that is not well-formed reads as (R94). -/
theorem reading_of_illFormed {m : RLogic} {i : Instr} (h : i.wellFormed m = false) :
    i.reading m = decodeContested m i := by
  rw [Instr.wellFormed, Bool.or_eq_false_iff, Bool.not_eq_false'] at h
  rw [Instr.reading, if_pos h.1]

/-- Settles O2, by decode_encode: an instruction that is not well-formed is a contested one. -/
theorem decodeInvertsEncode : Obligations.DecodeInvertsEncode := by
  intro m i
  rw [decode_encode]
  refine ⟨fun h => reading_eq_instr_iff.2 ⟨h, rfl⟩, ?_, ?_⟩ <;>
  · rintro h rfl
    exact reading_of_illFormed h

/-! ## The classes of words -/

/-! A word's reading, by the table that lists its code. -/

theorem decode_functListed {m : RLogic} {w : Word} (hop : (fields w).opcode = Code.special)
    (h : (fields w).funct ∈ functTable.map Prod.fst) : ∃ i, decode m w = .instr i := by
  obtain ⟨b, hb⟩ := lookup_eq_some_of_key h
  exact ⟨_, by rw [decode_special hop, decodeFunct, hb]⟩

theorem decode_contestedListed {m : RLogic} {w : Word} (hop : (fields w).opcode = Code.special)
    (h : (fields w).funct ∈ contestedTable.map Prod.fst) : ∃ i, decode m w = decodeContested m i := by
  have hdisjoint : ∀ c ∈ contestedTable.map Prod.fst, c ∉ functTable.map Prod.fst := by decide
  obtain ⟨b, hb⟩ := lookup_eq_some_of_key h
  exact ⟨_, by rw [decode_special hop, decodeFunct, lookup_eq_none_iff_key.2 (hdisjoint _ h), hb]⟩

theorem decode_functUnlisted {m : RLogic} {w : Word} (hop : (fields w).opcode = Code.special)
    (hf : (fields w).funct ∉ functTable.map Prod.fst) (hc : (fields w).funct ∉ contestedTable.map Prod.fst) :
    decode m w = .unknown .funct := by
  rw [decode_special hop, decodeFunct, lookup_eq_none_iff_key.2 hf, lookup_eq_none_iff_key.2 hc]

theorem decode_regimmListed {m : RLogic} {w : Word} (hop : (fields w).opcode = Code.regimm)
    (h : (fields w).rt ∈ regimmTable.map Prod.fst) : ∃ i, decode m w = .instr i := by
  obtain ⟨b, hb⟩ := lookup_eq_some_of_key h
  exact ⟨_, by rw [decode_regimm hop, decodeRegimm, hb]⟩

theorem decode_regimmUnlisted {m : RLogic} {w : Word} (hop : (fields w).opcode = Code.regimm)
    (h : (fields w).rt ∉ regimmTable.map Prod.fst) : decode m w = .unknown .regimm := by
  rw [decode_regimm hop, decodeRegimm, lookup_eq_none_iff_key.2 h]

theorem decode_opcodeListed {m : RLogic} {w : Word} (h : (fields w).opcode ∈ opcodeTable.map Prod.fst) :
    ∃ i, decode m w = .instr i := by
  have hfree : ∀ c ∈ opcodeTable.map Prod.fst, c ≠ Code.special ∧ c ≠ Code.regimm := by decide
  obtain ⟨hs, hr⟩ := hfree _ h
  obtain ⟨b, hb⟩ := lookup_eq_some_of_key h
  exact ⟨_, by rw [decode, decodeFields_opcode m hs hr, decodeOpcode, hb]⟩

theorem decode_opcodeUnlisted {m : RLogic} {w : Word} (hs : (fields w).opcode ≠ Code.special)
    (hr : (fields w).opcode ≠ Code.regimm) (h : (fields w).opcode ∉ opcodeTable.map Prod.fst) :
    decode m w = .unknown .opcode := by
  rw [decode, decodeFields_opcode m hs hr, decodeOpcode, lookup_eq_none_iff_key.2 h]

/-- Settles O4: the opcode, and for opcode 0 and 1 the funct or rt field, select the table and say whether it lists the
code; the lists of the statement are the codes of the tables. -/
theorem everyWordFallsInItsListedClass : Obligations.EveryWordFallsInItsListedClass := by
  intro m w op rt fn opcodes functs contested subcodes
  have hfree : 0#6 ∉ opcodes ∧ 1#6 ∉ opcodes := by decide
  have hdisjoint : ∀ c ∈ contested, c ∉ functs := by decide
  by_cases hs : op = 0#6
  · by_cases hf : fn ∈ functs
    · obtain ⟨i, hi⟩ := decode_functListed (m := m) hs hf
      have hc : fn ∉ contested := fun hc => hdisjoint _ hc hf
      simp [hi, hs, hf, hc, hfree]
    by_cases hc : fn ∈ contested
    · obtain ⟨i, hi⟩ := decode_contestedListed (m := m) hs hc
      cases m <;> simp [hi, hs, hf, hc, hfree, decodeContested]
    · simp [decode_functUnlisted hs hf hc, hs, hf, hc, hfree]
  by_cases hr : op = 1#6
  · by_cases ht : rt ∈ subcodes
    · obtain ⟨i, hi⟩ := decode_regimmListed (m := m) hr ht
      simp [hi, hr, ht, hfree]
    · simp [decode_regimmUnlisted hr ht, hr, ht, hfree]
  by_cases ho : op ∈ opcodes
  · obtain ⟨i, hi⟩ := decode_opcodeListed (m := m) ho
    simp [hi, hs, hr, ho]
  · simp [decode_opcodeUnlisted hs hr ho, hs, hr, ho]

/-- Settles O1, by decoding each of the written-out words. -/
theorem writtenOutWordsDecode : Obligations.WrittenOutWordsDecode := by
  unfold Obligations.WrittenOutWordsDecode
  decide

end Sys2Proof
end

section
/-! SUPPORT. What an instruction may write, said once over all instructions against the tables of Safety.lean, and the
statements about PC, registers, HI, LO and memory that follow (spec/10_state.md R22 to R25, spec/20_memory.md R53). -/

namespace Sys2Proof.Machine

/-! ## What an instruction may write -/

/-- The state t differs from s only where the tables let the instruction i write. -/
structure Writes (i : Instr) (s t : State) : Prop where
  pc : s.nxt.pc = s.pcPlus4 → t.nxt.pc = nextPC s i
  gpr : ∀ r, i.dest ≠ some r ∨ (s.params.hardwireR0 = true ∧ r = 0) → t.nxt.gpr.get r = s.nxt.gpr.get r
  hi : i.writesHi = false → t.nxt.hi = s.nxt.hi
  lo : i.writesLo = false → t.nxt.lo = s.nxt.lo
  mem : t.mem = s.mem ∨
    ∃ ea v w, dataEvents s i = [.store ea v w] ∧ t.mem = s.mem.write32 s.params.mem.order ea v w

namespace Writes

variable {i : Instr} {s t : State}

/-- An effect that writes neither next nor memory. -/
theorem nothing (hpc : nextPC s i = s.pcPlus4) (hn : t.nxt = s.nxt) (hm : t.mem = s.mem) : Writes i s t :=
  ⟨fun h => by rw [hn, h, hpc], fun _ _ => by rw [hn], fun _ => by rw [hn], fun _ => by rw [hn], .inl hm⟩

/-- A register write, to the destination of the table. -/
theorem writeGPR (h : Writes i s t) (hp : t.params = s.params) {d : Reg} (hd : i.dest = some d) (v : Word) :
    Writes i s (t.writeGPR d v) := by
  refine ⟨by simpa using h.pc, fun r hr => ?_, by simpa using h.hi, by simpa using h.lo, by simpa using h.mem⟩
  rw [writeGPR_nxt_get, if_neg, h.gpr r hr]
  rintro ⟨rfl, hz⟩
  obtain hr | ⟨hw, rfl⟩ := hr
  · exact hr hd
  · exact hz ⟨hp ▸ hw, rfl⟩

theorem writeDest (hpc : nextPC s i = s.pcPlus4) {d : Reg} (hd : i.dest = some d) (v : Word) :
    Writes i s (s.writeGPR d v) := (nothing hpc rfl rfl).writeGPR rfl hd v

theorem writePC {v : Word} (hv : nextPC s i = v) : Writes i s (s.writePC v) :=
  ⟨fun _ => hv.symm, fun _ _ => rfl, fun _ => rfl, fun _ => rfl, .inl rfl⟩

theorem writeHiLo (hpc : nextPC s i = s.pcPlus4) (hh : i.writesHi = true) (hl : i.writesLo = true) (a b : Word) :
    Writes i s (s.writeHiLo a b) :=
  ⟨fun h => h.trans hpc.symm, fun _ _ => rfl, by simp [hh], by simp [hl], .inl rfl⟩

theorem branchIf {c : Bool} {imm : BitVec 16} (hpc : nextPC s i = if c then s.branchTarget imm else s.pcPlus4) :
    Writes i s (s.branchIf c imm) := by
  cases c
  · exact nothing hpc rfl rfl
  · exact writePC hpc

/-- A linking branch writes r31 and PC where taken, and at most r31 where not (R207, R208). -/
theorem linkIf_branchIf {c : Bool} {imm : BitVec 16} (hd : i.dest = some linkReg)
    (hpc : nextPC s i = if c then s.branchTarget imm else s.pcPlus4) :
    Writes i s ((s.linkIf c).branchIf c imm) := by
  cases c
  · change Writes i s (s.linkIf false)
    unfold State.linkIf
    split
    · exact writeDest hpc hd _
    · exact nothing hpc rfl rfl
  · have htarget : (s.writeGPR linkReg s.pcPlus4).branchTarget imm = s.branchTarget imm := by simp [State.branchTarget]
    change Writes i s ((s.writeGPR linkReg s.pcPlus4).writePC ((s.writeGPR linkReg s.pcPlus4).branchTarget imm))
    rw [htarget, writeGPR_writePC]
    exact (writePC hpc).writeGPR rfl hd _

theorem loadTo (hpc : nextPC s i = s.pcPlus4) {rt : Reg} {ea : Word} {f : Word → Word} (hd : i.dest = some rt)
    (h : s.loadTo rt ea f = .next t) : Writes i s t := by
  obtain ⟨-, h'⟩ | ⟨-, h'⟩ := loadTo_cases s rt ea f <;> rw [h'] at h
  · exact Host.Outcome.next.inj h ▸ (nothing (t := s.emit _) hpc rfl rfl).writeGPR rfl hd _
  · cases h

theorem storeTo (hpc : nextPC s i = s.pcPlus4) {ea v : Word} {w : Width} (he : dataEvents s i = [.store ea v w])
    (h : s.storeTo ea v w = .next t) : Writes i s t := by
  obtain ⟨-, h'⟩ | ⟨-, h'⟩ := storeTo_cases s ea v w <;> rw [h'] at h
  · obtain rfl := Host.Outcome.next.inj h
    exact ⟨fun h => h.trans hpc.symm, fun _ _ => rfl, fun _ => rfl, fun _ => rfl, .inr ⟨ea, v, w, he, rfl⟩⟩
  · cases h

end Writes

open Writes in
/-- Every instruction that completes writes only what the tables let it write. -/
theorem exec_writes {i : Instr} {s t : State} (h : exec i s = .next t) : Writes i s t := by
  cases i
  case lb | lh | lw | lbu | lhu => exact loadTo rfl rfl h
  case sb => exact storeTo rfl (by rw [dataEvents, zeroByte_eq_ofNat]) h
  case sh => exact storeTo rfl (by rw [dataEvents, zeroHalf_eq_ofNat]) h
  case sw => exact storeTo rfl rfl h
  case div =>
    simp only [exec, execDiv] at h
    split at h
    · exact Host.Outcome.next.inj h ▸ nothing rfl rfl rfl
    · split at h <;> exact Host.Outcome.next.inj h ▸ writeHiLo rfl rfl rfl _ _
  case divu =>
    simp only [exec, execDivu] at h
    split at h
    · exact Host.Outcome.next.inj h ▸ nothing rfl rfl rfl
    · exact Host.Outcome.next.inj h ▸ writeHiLo rfl rfl rfl _ _
  case syscall =>
    simp only [exec, execSyscall] at h
    split at h <;> exact Host.Outcome.next.inj h ▸ nothing rfl rfl rfl
  all_goals obtain rfl := Host.Outcome.next.inj h
  case mult | multu => exact writeHiLo rfl rfl rfl _ _
  case mthi => exact ⟨id, fun _ _ => rfl, nofun, fun _ => rfl, .inl rfl⟩
  case mtlo => exact ⟨id, fun _ _ => rfl, fun _ => rfl, nofun, .inl rfl⟩
  case jr | j => exact writePC rfl
  case jalr => exact (writePC rfl).writeGPR rfl rfl _
  case jal =>
    rw [writeGPR_writePC]
    exact (writePC rfl).writeGPR rfl rfl _
  case beq | bne => exact branchIf (by simp [nextPC])
  case blez | bgtz | bltz | bgez =>
    exact branchIf (by simp [nextPC, isLeZero, isGtZero, isLtZero, isGeZero])
  case bltzal | bgezal => exact linkIf_branchIf rfl (by simp [nextPC, isLtZero, isGeZero])
  -- What is left writes its destination: the ALU, mfhi and mflo.
  all_goals exact writeDest rfl rfl _

/-! ## What a step may write -/

/-- The next PC depends on the current snapshot and the parameters only, which the fetch leaves. -/
theorem nextPC_fetched (s : State) (w : Word) (i : Instr) : nextPC (s.fetched w) i = nextPC s i := by
  cases i <;> rfl

/-- Settles O8, by exec_writes on the fetched state, where next holds the fallthrough. -/
theorem nextPCOfEveryStep : Obligations.NextPCOfEveryStep := by
  intro s t w hw h
  obtain ⟨i, u, hd, hu, rfl⟩ | ⟨_, hd, rfl⟩ := step_next_of_fetches hw h <;> rw [hd]
  · exact ((exec_writes hu).pc rfl).trans (nextPC_fetched s w i)
  · rfl

/-- Settles O9, by exec_writes; an unknown word writes no register. -/
theorem stepChangesOnlyTheDestinationRegister : Obligations.StepChangesOnlyTheDestinationRegister := by
  intro s t w r hw h hr
  obtain ⟨i, u, hd, hu, rfl⟩ | ⟨_, -, rfl⟩ := step_next_of_fetches hw h
  · exact (exec_writes hu).gpr r (hr.imp_left fun hi => hi i hd)
  · rfl

/-- Settles O10, by exec_writes; an unknown word writes neither. -/
theorem hiAndLoChangeOnlyOnTheirInstructions : Obligations.HiAndLoChangeOnlyOnTheirInstructions := by
  intro s t w hw h
  obtain ⟨i, u, hd, hu, rfl⟩ | ⟨_, -, rfl⟩ := step_next_of_fetches hw h
  · exact ⟨fun hi => (exec_writes hu).hi (hi i hd), fun hi => (exec_writes hu).lo (hi i hd)⟩
  · exact ⟨fun _ => rfl, fun _ => rfl⟩

/-- Settles O12: by exec_writes memory is as before or after the one store of dataEvents, which leaves the bytes outside
it alone. -/
theorem memoryChangesOnlyUnderAStore : Obligations.MemoryChangesOnlyUnderAStore := by
  intro s t w a hw h ha
  obtain ⟨i, u, hd, hu, rfl⟩ | ⟨_, -, rfl⟩ := step_next_of_fetches hw h
  · obtain hm | ⟨ea, v, x, he, hm⟩ := (exec_writes hu).mem
    · exact congrArg (Memory.read · a) hm
    · rw [dataEvents_fetched] at he
      rw [commit_mem, hm]
      exact Memory.read_write32_outside _ _ _ _ _ _ (ha i ea v x hd he)
  · rfl

end Sys2Proof.Machine
end

section
/-! SUPPORT. Where a step stops and how runs end (spec/40_cycle.md R125, R130, R132, spec/70_reset_and_hazards.md R334,
R341). -/

namespace Sys2Proof.Machine

/-! ## Where an instruction stops -/

/-- A load or store whose request is declined is stuck at its address (R240). -/
theorem exec_declined {i : Instr} {s : State} {a : Word} {n : Nat} (hreq : dataRequest s i = some (a, n))
    (ha : admits s.params.mem a n = false) : exec i s = .fault (.dataNotAdmitted a) := by
  cases i
  case lb | lh | lw | lbu | lhu =>
    cases hreq
    exact loadTo_declined _ _ ha
  case sb =>
    cases hreq
    exact storeTo_declined (w := .b8) _ ha
  case sh =>
    cases hreq
    exact storeTo_declined (w := .b16) _ ha
  case sw =>
    cases hreq
    exact storeTo_declined (w := .b32) _ ha
  all_goals cases hreq

/-- An instruction whose data request, if it has one, is admitted completes, whatever its operands (R300). -/
theorem exec_completes {i : Instr} {s : State}
    (ha : ∀ a n, dataRequest s i = some (a, n) → admits s.params.mem a n = true) : ∃ t, exec i s = .next t := by
  cases i
  case lb | lh | lw | lbu | lhu => exact ⟨_, loadTo_admitted _ _ (ha _ _ rfl)⟩
  case sb => exact ⟨_, storeTo_admitted (w := .b8) _ (ha _ _ rfl)⟩
  case sh => exact ⟨_, storeTo_admitted (w := .b16) _ (ha _ _ rfl)⟩
  case sw => exact ⟨_, storeTo_admitted (w := .b32) _ (ha _ _ rfl)⟩
  case div =>
    simp only [exec, execDiv]
    split
    · exact ⟨_, rfl⟩
    · split <;> exact ⟨_, rfl⟩
  case divu =>
    simp only [exec, execDivu]
    split <;> exact ⟨_, rfl⟩
  case syscall =>
    simp only [exec, execSyscall]
    split <;> exact ⟨_, rfl⟩
  all_goals exact ⟨_, rfl⟩

/-! ## Where a step stops -/

theorem step_halted {s : State} (h : s.run = false) : step s = .fault .halted := by
  simp [step, driverCycle, h]

theorem step_fetchDeclined {s : State} (hr : s.run = true) (ha : admits s.params.mem s.cur.pc 4 = false) :
    step s = .fault (.fetchNotAdmitted s.cur.pc) := by
  simp [step, driverCycle, hr, invoke, State.fetch, memRead_declined ha]

theorem step_contested {s : State} {w : Word} (hw : s.fetches w) (hd : decode s.params.rLogic w = .contested) :
    step s = .refused (.contested w) := by
  rw [step_of_fetches hw, execWord_contested hd]

theorem dataRequest_fetched (s : State) (w : Word) (i : Instr) : dataRequest (s.fetched w) i = dataRequest s i := by
  cases i <;> rfl

theorem step_dataDeclined {s : State} {i : Instr} {a : Word} {n : Nat} (hi : s.runsInstr i)
    (hreq : dataRequest s i = some (a, n)) (ha : admits s.params.mem a n = false) :
    step s = .fault (.dataNotAdmitted a) := by
  obtain ⟨w, hw, hd⟩ := hi
  rw [← dataRequest_fetched s w i] at hreq
  rw [step_of_fetches hw, execWord_instr hd, exec_declined hreq ha]

/-- A step on an instruction whose data request, if it has one, is admitted completes. -/
theorem step_completes {s : State} {i : Instr} (hi : s.runsInstr i)
    (ha : ∀ a n, dataRequest s i = some (a, n) → admits s.params.mem a n = true) : ∃ t, step s = .next t := by
  obtain ⟨w, hw, hd⟩ := hi
  rw [← dataRequest_fetched s w i] at ha
  obtain ⟨t, ht⟩ := exec_completes ha
  exact ⟨_, step_of_exec hw hd ht⟩

/-- How a step from s ends, each end with its condition. -/
inductive StepEnd (s : State) : Host.Outcome State Fault Refusal → Prop where
  | halted (hr : s.run = false) : StepEnd s (.fault .halted)
  | fetchDeclined (hr : s.run = true) (ha : admits s.params.mem s.cur.pc 4 = false) :
    StepEnd s (.fault (.fetchNotAdmitted s.cur.pc))
  | dataDeclined {i : Instr} {a : Word} {n : Nat} (hi : s.runsInstr i) (hreq : dataRequest s i = some (a, n))
    (ha : admits s.params.mem a n = false) : StepEnd s (.fault (.dataNotAdmitted a))
  | contested {w : Word} (hw : s.fetches w) (hd : decode s.params.rLogic w = .contested) :
    StepEnd s (.refused (.contested w))
  | completes (t : State) : StepEnd s (.next t)

theorem step_end (s : State) : StepEnd s (step s) := by
  cases hr : s.run with
  | false => exact step_halted hr ▸ .halted hr
  | true =>
  cases ha : admits s.params.mem s.cur.pc 4 with
  | false => exact step_fetchDeclined hr ha ▸ .fetchDeclined hr ha
  | true =>
  have hw : s.fetches _ := ⟨hr, ha, rfl⟩
  cases hd : decode s.params.rLogic (s.mem.read32 s.params.mem.order s.cur.pc) with
  | contested => exact step_contested hw hd ▸ .contested hw hd
  | unknown k => exact step_unknown hw hd ▸ .completes _
  | instr i =>
  by_cases hreq : ∀ a n, dataRequest s i = some (a, n) → admits s.params.mem a n = true
  · obtain ⟨t, ht⟩ := step_completes ⟨_, hw, hd⟩ hreq
    exact ht ▸ .completes t
  · push Not at hreq
    obtain ⟨a, n, hreq, hne⟩ := hreq
    have hdecl := Bool.eq_false_iff.2 hne
    exact step_dataDeclined ⟨_, hw, hd⟩ hreq hdecl ▸ .dataDeclined ⟨_, hw, hd⟩ hreq hdecl

theorem stepEnd_of_eq {s : State} {o : Host.Outcome State Fault Refusal} (h : step s = o) : StepEnd s o :=
  h ▸ step_end s

/-- Settles O7: step_end gives each stop its condition, and each condition gives its stop. -/
theorem stepsStopOnlyWhereTheSpecSays : Obligations.StepsStopOnlyWhereTheSpecSays := by
  intro s
  refine ⟨⟨fun h => ?_, step_halted⟩, fun a => ⟨fun h => ?_, ?_⟩, fun a => ⟨fun h => ?_, ?_⟩, fun w => ⟨fun h => ?_, ?_⟩,
    fun name h => nomatch stepEnd_of_eq h⟩
  · cases stepEnd_of_eq h with
    | halted hr => exact hr
  · cases stepEnd_of_eq h with
    | fetchDeclined hr ha => exact ⟨hr, ha, rfl⟩
  · rintro ⟨hr, ha, rfl⟩
    exact step_fetchDeclined hr ha
  · cases stepEnd_of_eq h with
    | dataDeclined hi hreq ha => exact ⟨_, _, hi, hreq, ha⟩
  · rintro ⟨i, n, hi, hreq, ha⟩
    exact step_dataDeclined hi hreq ha
  · cases stepEnd_of_eq h with
    | contested hw hd => exact ⟨hw, hd⟩
  · rintro ⟨hw, hd⟩
    exact step_contested hw hd

/-! ## The exit (R130) -/

/-- The exit code clears the run flag and emits RunClear (R182). -/
theorem exec_syscall_exit {s : State} (h : s.readGPR s.params.syscallReg = s.params.syscallExit) :
    exec .syscall s = .next s.emitRunClear := if_pos h

/-- Every other number is a no-op (R182). -/
theorem exec_syscall_other {s : State} (h : s.readGPR s.params.syscallReg ≠ s.params.syscallExit) :
    exec .syscall s = .next s := if_neg h

/-- Settles O37. -/
theorem syscallOnlyHalts : Obligations.SyscallOnlyHalts := fun _ => ⟨exec_syscall_exit, exec_syscall_other⟩

/-- RunClear is no data access. -/
theorem runClear_notMem_dataEvents (s : State) (i : Instr) : .runClear ∉ dataEvents s i := by
  cases i <;> simp [dataEvents]

theorem exec_runClear_iff {i : Instr} {s t : State} (h : exec i s = .next t) (hs : .runClear ∉ s.events) :
    .runClear ∈ t.events ↔ i = .syscall ∧ s.readGPR s.params.syscallReg = s.params.syscallExit := by
  constructor
  · intro hmem
    obtain he | ⟨hi, hx, -⟩ := exec_events h
    · simp [he, hs, runClear_notMem_dataEvents] at hmem
    · exact ⟨hi, hx⟩
  · rintro ⟨rfl, hx⟩
    rw [exec_syscall_exit hx] at h
    obtain rfl := Host.Outcome.next.inj h
    simp

/-- A step emits RunClear exactly on the exit syscall. -/
theorem step_runClear_iff {s t : State} {w : Word} (hw : s.fetches w) (h : step s = .next t) :
    .runClear ∈ t.events ↔
      decode s.params.rLogic w = .instr .syscall ∧ s.readGPR s.params.syscallReg = s.params.syscallExit := by
  obtain ⟨i, u, hd, hu, rfl⟩ | ⟨k, hd, rfl⟩ := step_next_of_fetches hw h
  · rw [hd, Decoded.instr.injEq]
    simpa using exec_runClear_iff hu (by simp)
  · simp [hd, State.afterUnknown]

/-- Settles O13: RunClear and the clear run flag come with the exit syscall alone, whose next PC is the fallthrough. -/
theorem runFlagClearedOnlyByTheExitSyscall : Obligations.RunFlagClearedOnlyByTheExitSyscall := by
  intro s
  refine ⟨fun w t hw h => ?_, fun w hw hd => step_completes ⟨w, hw, hd⟩ nofun, fun hr t h => ?_⟩
  · have hclear := step_run_iff h
    refine ⟨hclear.trans (step_runClear_iff hw h), hclear.symm, fun ht => ⟨?_, step_halted ht⟩⟩
    obtain ⟨hd, -⟩ := (step_runClear_iff hw h).1 (hclear.1 ht)
    have hpc := nextPCOfEveryStep s t w hw h
    rw [hd] at hpc
    exact hpc
  · rw [step_halted hr] at h
    cases h

/-! ## Runs on the whole space (R300) -/

/-- A collaborator with the whole space and every alignment admits every request. -/
theorem admits_everything {p : MemParams} (hr : p.regions = [Region.everything]) (ha : p.alignedOnly = false) (a : Word)
    (n : Nat) : admits p a n = true := by
  have hbyte (k : Nat) : admitsByte p (byteAddr a k) = true := by
    simpa [admitsByte, hr, regionHas, Region.everything] using Memory.byteAddr_lt a k
  simp [admits, ha, hbyte]

theorem reaches_params {s t : State} (h : Reaches s t) : t.params = s.params := by
  induction h with
  | start => rfl
  | step _ hs ih => exact (step_effect hs).params.trans ih

/-- A word is contested under refuse only (R94). -/
theorem refuse_of_contested {m : RLogic} {w : Word} (h : decode m w = .contested) : m = .refuse := by
  obtain ⟨-, -, -, hc, -⟩ := everyWordFallsInItsListedClass m w
  exact (hc.1 h).2.2

/-- Settles O20: where everything is admitted and nothing refused, of the ends of step_end only two are left. -/
theorem runsOnTheWholeSpaceAreSafe : Obligations.RunsOnTheWholeSpaceAreSafe := by
  intro s hregions haligned hlogic t hreach
  rw [← reaches_params hreach] at hregions haligned hlogic
  have hend := step_end t
  generalize step t = o at hend
  cases hend with
  | halted => exact .inr rfl
  | completes u => exact .inl ⟨u, rfl⟩
  | fetchDeclined _ ha | dataDeclined _ _ ha => simp [admits_everything hregions haligned] at ha
  | contested _ hd => exact absurd (refuse_of_contested hd) hlogic

/-! ## The driver's loop (R132, R334, R341) -/

theorem Reaches.head {s t u : State} (hs : Machine.step s = .next t) (h : Reaches t u) : Reaches s u := by
  induction h with
  | start => exact .step .start hs
  | step _ hu ih => exact .step ih hu

/-- What an end of n cycles from s says. -/
def RunEnd.Sound (s : State) (n : Nat) : RunEnd → Prop
  | .running t => Reaches s t ∧ t.cycles = s.cycles + n
  | .halted t => Reaches s t ∧ t.run = false ∧ Event.runClear ∈ t.events ∧ step t = .fault .halted ∧
      s.cycles < t.cycles ∧ t.cycles ≤ s.cycles + n
  | .stuck t r => Reaches s t ∧ step t = .fault r
  | .refused t r => Reaches s t ∧ step t = .refused r

/-- An end of n cycles after a step is one of n + 1 cycles before it. -/
theorem RunEnd.Sound.head {s t : State} {n : Nat} {e : RunEnd} (hs : step s = .next t) (h : e.Sound t n) :
    e.Sound s (n + 1) := by
  have hc := (step_effect hs).cycles
  cases e with
  | running u => exact ⟨h.1.head hs, by rw [h.2, hc]; omega⟩
  | halted u =>
    obtain ⟨hreach, hrun, hclear, hstep, hlt, hle⟩ := h
    exact ⟨hreach.head hs, hrun, hclear, hstep, by omega, by omega⟩
  | stuck u r | refused u r => exact ⟨h.1.head hs, h.2⟩

theorem runFor_fault {s : State} {r : Fault} (h : step s = .fault r) (n : Nat) : runFor (n + 1) s = .stuck s r := by
  simp only [runFor, h]

theorem runFor_refused {s : State} {r : Refusal} (h : step s = .refused r) (n : Nat) :
    runFor (n + 1) s = .refused s r := by
  simp only [runFor, h]

theorem runFor_goesOn {s t : State} (h : step s = .next t) (hr : t.run = true) (n : Nat) :
    runFor (n + 1) s = runFor n t := by
  simp only [runFor, h, hr, if_true]

theorem runFor_halts {s t : State} (h : step s = .next t) (hr : t.run = false) (n : Nat) :
    runFor (n + 1) s = .halted t := by
  simp [runFor, h, hr]

theorem runFor_sound (n : Nat) (s : State) : (runFor n s).Sound s n := by
  induction n generalizing s with
  | zero => exact ⟨.start, rfl⟩
  | succ n ih =>
    cases hs : step s with
    | fault r => exact runFor_fault hs n ▸ ⟨.start, hs⟩
    | refused r => exact runFor_refused hs n ▸ ⟨.start, hs⟩
    | next t =>
      cases hr : t.run with
      | true => exact runFor_goesOn hs hr n ▸ (ih t).head hs
      | false =>
        have hc := (step_effect hs).cycles
        exact runFor_halts hs hr n ▸
          ⟨.step .start hs, hr, (step_run_iff hs).1 hr, step_halted hr, by omega, by omega⟩

/-- An end is final. -/
theorem runFor_final {n : Nat} {s : State} (h : ∀ t, runFor n s ≠ .running t) (k : Nat) :
    runFor (n + k) s = runFor n s := by
  induction n generalizing s with
  | zero => exact absurd rfl (h s)
  | succ n ih =>
    rw [Nat.add_right_comm]
    cases hs : step s with
    | fault r => rw [runFor_fault hs, runFor_fault hs]
    | refused r => rw [runFor_refused hs, runFor_refused hs]
    | next t =>
      cases hr : t.run with
      | true =>
        rw [runFor_goesOn hs hr] at h ⊢
        rw [runFor_goesOn hs hr]
        exact ih h
      | false => rw [runFor_halts hs hr, runFor_halts hs hr]

/-- Settles O21, by runFor_sound and runFor_final. -/
theorem runsEndHaltedStuckOrRefused : Obligations.RunsEndHaltedStuckOrRefused := by
  intro n s
  have hsound (e : RunEnd) (he : runFor n s = e) : e.Sound s n := he ▸ runFor_sound n s
  exact ⟨fun t => hsound (.running t), fun t => hsound (.halted t), fun t r => hsound (.stuck t r),
    fun t r => hsound (.refused t r), runFor_final⟩

end Sys2Proof.Machine
end

section
/-! SUPPORT. Addresses and targets as integers (spec/30_encoding.md R87, R88), and which targets are word-aligned. -/

namespace Sys2Proof.Machine

theorem ofInt_toNat (v : Word) : BitVec.ofInt 32 v.toNat = v := by simp

/-- Adding the sign-extended immediate is adding its signed value (R86). -/
theorem add_simm (v : Word) (imm : BitVec 16) : v + simm imm = BitVec.ofInt 32 (v.toNat + imm.toInt) := by
  rw [BitVec.ofInt_add, ofInt_toNat]
  rfl

/-- The shifted immediate is four times the signed one. -/
theorem simm_shifted (imm : BitVec 16) : simm imm <<< 2 = BitVec.ofInt 32 (4 * imm.toInt) := by
  rw [BitVec.ofInt_mul, BitVec.shiftLeft_eq_mul_twoPow, BitVec.mul_comm]
  rfl

theorem branchTarget_eq (s : State) (imm : BitVec 16) :
    s.branchTarget imm = BitVec.ofInt 32 (s.cur.pc.toNat + 4 + 4 * imm.toInt) := by
  rw [BitVec.ofInt_add, BitVec.ofInt_add, ofInt_toNat, ← simm_shifted]
  rfl

theorem jumpTarget_toNat (s : State) (target : BitVec 26) :
    (s.jumpTarget target).toNat = s.cur.pc.toNat / 2 ^ 28 * 2 ^ 28 + 4 * target.toNat := by
  have htop : s.cur.pc.toNat / 2 ^ 28 < 2 ^ 4 := by have := s.cur.pc.isLt; omega
  rw [jumpTarget_eq_append, BitVec.toNat_append, BitVec.toNat_append, BitVec.extractLsb'_toNat,
    ← Nat.shiftLeft_add_eq_or_of_lt (by simp), ← Nat.shiftLeft_add_eq_or_of_lt target.isLt, Nat.shiftRight_eq_div_pow,
    Nat.shiftLeft_eq, Nat.shiftLeft_eq, Nat.mod_eq_of_lt htop, BitVec.toNat_ofNat]
  omega

/-- Settles O30. -/
theorem addressesAreComputedModulo32Bits : Obligations.AddressesAreComputedModulo32Bits :=
  fun s rs imm target => ⟨add_simm (s.readGPR rs) imm, branchTarget_eq s imm, jumpTarget_toNat s target⟩

/-! ## Alignment -/

theorem pcPlus4_aligned {s : State} (h : s.cur.pc.toNat % 4 = 0) : s.pcPlus4.toNat % 4 = 0 := by
  rw [pcPlus4_eq, BitVec.toNat_add, show (4 : Word).toNat = 4 from rfl]
  omega

theorem branchTarget_aligned {s : State} (h : s.cur.pc.toNat % 4 = 0) (imm : BitVec 16) :
    (s.branchTarget imm).toNat % 4 = 0 := by
  have hpc := pcPlus4_aligned h
  change (s.pcPlus4 + simm imm <<< 2).toNat % 4 = 0
  rw [BitVec.toNat_add, BitVec.toNat_shiftLeft, Nat.shiftLeft_eq]
  omega

theorem jumpTarget_aligned (s : State) (target : BitVec 26) : (s.jumpTarget target).toNat % 4 = 0 := by
  rw [jumpTarget_toNat]
  omega

/-- The next PC of an aligned PC is aligned, but for the register jumps. -/
theorem nextPC_aligned {s : State} (h : s.cur.pc.toNat % 4 = 0) {i : Instr} (hjr : ∀ rs, i ≠ .jr rs)
    (hjalr : ∀ rd rs, i ≠ .jalr rd rs) : (nextPC s i).toNat % 4 = 0 := by
  have hbranch (p : Prop) [Decidable p] (imm : BitVec 16) :
      (if p then s.branchTarget imm else s.pcPlus4).toNat % 4 = 0 := by
    split
    · exact branchTarget_aligned h imm
    · exact pcPlus4_aligned h
  cases i
  case jr rs => exact absurd rfl (hjr rs)
  case jalr rd rs => exact absurd rfl (hjalr rd rs)
  case j | jal => exact jumpTarget_aligned s _
  case beq | bne | blez | bgtz | bltz | bgez | bltzal | bgezal => exact hbranch _ _
  all_goals exact pcPlus4_aligned h

/-- Settles O51: by nextPCOfEveryStep the new PC is nextPC or the fallthrough. -/
theorem onlyRegisterJumpsMisalignThePC : Obligations.OnlyRegisterJumpsMisalignThePC := by
  intro s t w hw hs h hj
  rw [nextPCOfEveryStep s t w hw hs]
  cases hd : decode s.params.rLogic w with
  | instr i =>
    exact nextPC_aligned h (fun rs hi => (hj 0 rs).1 (hi ▸ hd)) fun rd rs hi => (hj rd rs).2 (hi ▸ hd)
  | unknown | contested => exact pcPlus4_aligned h

end Sys2Proof.Machine
end

section
/-! SUPPORT. The results of the instructions that write registers alone: each value as arithmetic on naturals and
integers, and each completion with its frame (spec/41_r_alu.md, spec/45_i_alu.md, spec/48_r_logic_ext.md). -/

namespace Sys2Proof.Machine

/-! ## Completion with the frame -/

/-- A register write of a value, under any spelling of the value. -/
theorem next_onlyGpr (s : State) (d : Reg) {v v' : Word} (h : v = v') :
    ∃ t, (.next (s.writeGPR d v) : Host.Outcome State Fault Refusal) = .next t ∧ OnlyGpr s t d v' :=
  ⟨_, rfl, h ▸ writeGPR_onlyGpr s d v⟩

/-! ## Sums, differences and shifts as numbers -/

theorem sub_eq_ofInt (a b : Word) : a - b = BitVec.ofInt 32 (a.toNat - b.toNat) := by
  rw [BitVec.sub_eq_iff_eq_add]
  nth_rw 2 [← ofInt_toNat b]
  rw [← BitVec.ofInt_add, Int.sub_add_cancel, ofInt_toNat]

theorem shiftLeft_eq_ofNat (v : Word) (n : Nat) : v <<< n = BitVec.ofNat 32 (v.toNat * 2 ^ n) := by
  apply BitVec.eq_of_toNat_eq
  rw [BitVec.toNat_shiftLeft, Nat.shiftLeft_eq, BitVec.toNat_ofNat]

theorem ushiftRight_eq_ofNat (v : Word) (n : Nat) : v >>> n = BitVec.ofNat 32 (v.toNat / 2 ^ n) := by
  apply BitVec.eq_of_toNat_eq
  rw [BitVec.toNat_ushiftRight, Nat.shiftRight_eq_div_pow, BitVec.toNat_ofNat,
    Nat.mod_eq_of_lt (Nat.lt_of_le_of_lt (Nat.div_le_self _ _) v.isLt)]

theorem sshiftRight_eq_ofInt (v : Word) (n : Nat) : v.sshiftRight n = BitVec.ofInt 32 (v.toInt / 2 ^ n) := by
  rw [BitVec.sshiftRight, Int.shiftRight_eq_div_pow]
  norm_cast

/-- The variable amount is the register modulo 32 (R88). -/
theorem regAmount_eq (v : Word) : regAmount v = v.toNat % 32 := by
  rw [regAmount, BitVec.extractLsb'_toNat]
  rfl

/-- Settles O31: a sum of words is the word of the sum by definition, and sub_eq_ofInt. -/
theorem addAndSubtractWrap : Obligations.AddAndSubtractWrap :=
  fun s rd _ _ => ⟨next_onlyGpr s rd rfl, next_onlyGpr s rd rfl, next_onlyGpr s rd (sub_eq_ofInt _ _),
    next_onlyGpr s rd (sub_eq_ofInt _ _)⟩

/-- Settles O32. -/
theorem shiftsMoveByAFiveBitAmount : Obligations.ShiftsMoveByAFiveBitAmount := by
  intro s rd rt rs shamt v n
  have hn : regAmount (s.readGPR rs) = n := regAmount_eq _
  exact ⟨next_onlyGpr s rd (shiftLeft_eq_ofNat _ _), next_onlyGpr s rd (ushiftRight_eq_ofNat _ _),
    next_onlyGpr s rd (sshiftRight_eq_ofInt _ _), next_onlyGpr s rd (hn ▸ shiftLeft_eq_ofNat _ _),
    next_onlyGpr s rd (hn ▸ ushiftRight_eq_ofNat _ _), next_onlyGpr s rd (hn ▸ sshiftRight_eq_ofInt _ _)⟩

/-! ## Immediates -/

theorem simm_toInt (imm : BitVec 16) : (simm imm).toInt = imm.toInt := BitVec.toInt_signExtend_of_le (by decide)

theorem simm_toNat (imm : BitVec 16) :
    (simm imm).toNat = if imm.toNat < 2 ^ 15 then imm.toNat else imm.toNat + (2 ^ 32 - 2 ^ 16) := by
  have hlt := imm.isLt
  rw [simm, BitVec.toNat_signExtend, BitVec.toNat_setWidth, BitVec.msb_eq_decide, Nat.mod_eq_of_lt (by omega)]
  by_cases h : 2 ^ (16 - 1) ≤ imm.toNat
  · rw [decide_eq_true h, if_pos rfl, if_neg (by omega)]
  · rw [decide_eq_false h, if_neg nofun, if_pos (by omega), Nat.add_zero]

theorem add_simm_signed (a : Word) (imm : BitVec 16) : a + simm imm = BitVec.ofInt 32 (a.toInt + imm.toInt) := by
  rw [BitVec.ofInt_add, BitVec.ofInt_toInt]
  rfl

theorem boolWord_decide (p : Prop) [Decidable p] : boolWord (decide p) = if p then 1 else 0 := by
  simp [boolWord]

/-- Settles O40. -/
theorem signedImmediatesAddAndCompare : Obligations.SignedImmediatesAddAndCompare := by
  intro s rt rs imm a
  exact ⟨next_onlyGpr s rt (add_simm_signed a imm), next_onlyGpr s rt (add_simm_signed a imm),
    next_onlyGpr s rt (by rw [setLessSigned, boolWord_decide, simm_toInt]),
    next_onlyGpr s rt (by rw [setLessUnsigned, boolWord_decide, simm_toNat])⟩

/-- A word is its two halves. -/
theorem halves (a : Word) : a.extractLsb' 16 16 ++ a.extractLsb' 0 16 = a :=
  (extract_join a (by rfl)).trans BitVec.extractLsb'_eq_self

/-- The zero-extended immediate is a zero half over it (R86). -/
theorem zimm_eq (imm : BitVec 16) : zimm imm = 0#16 ++ imm := BitVec.setWidth_eq_append (by decide)

theorem and_zimm (a : Word) (imm : BitVec 16) : a &&& zimm imm = 0#16 ++ (a.extractLsb' 0 16 &&& imm) := by
  nth_rw 1 [← halves a]
  rw [zimm_eq, BitVec.and_append, BitVec.and_zero]

theorem or_zimm (a : Word) (imm : BitVec 16) :
    a ||| zimm imm = a.extractLsb' 16 16 ++ (a.extractLsb' 0 16 ||| imm) := by
  nth_rw 1 [← halves a]
  rw [zimm_eq, BitVec.or_append, BitVec.or_zero]

theorem xor_zimm (a : Word) (imm : BitVec 16) :
    a ^^^ zimm imm = a.extractLsb' 16 16 ++ (a.extractLsb' 0 16 ^^^ imm) := by
  nth_rw 1 [← halves a]
  rw [zimm_eq, BitVec.xor_append, BitVec.xor_zero]

theorem immHigh_eq_ofNat (imm : BitVec 16) : immHigh imm = BitVec.ofNat 32 (imm.toNat * 65536) := by
  have hlt := imm.isLt
  apply BitVec.eq_of_toNat_eq
  rw [immHigh, BitVec.toNat_append, Nat.shiftLeft_eq, show (0 : BitVec 16).toNat = 0 from rfl, Nat.or_zero,
    BitVec.toNat_ofNat]
  omega

/-- Settles O41. -/
theorem logicImmediatesAreZeroExtended : Obligations.LogicImmediatesAreZeroExtended :=
  fun s rt _ imm => ⟨next_onlyGpr s rt (and_zimm _ imm), next_onlyGpr s rt (or_zimm _ imm),
    next_onlyGpr s rt (xor_zimm _ imm), next_onlyGpr s rt (immHigh_eq_ofNat imm)⟩

/-! ## The contested six -/

/-- Settles O47. -/
theorem contestedLogicCompletes : Obligations.ContestedLogicCompletes := by
  intro s rd rs rt a b
  exact ⟨⟨_, _, rfl, writeGPR_onlyGpr s rd _, fun k _ => BitVec.getLsbD_and⟩,
    ⟨_, _, rfl, writeGPR_onlyGpr s rd _, fun k _ => BitVec.getLsbD_or⟩,
    ⟨_, _, rfl, writeGPR_onlyGpr s rd _, fun k _ => BitVec.getLsbD_xor⟩,
    ⟨_, _, rfl, writeGPR_onlyGpr s rd _, fun k hk => by
      rw [BitVec.getLsbD_not, BitVec.getLsbD_or, decide_eq_true hk, Bool.true_and]⟩,
    next_onlyGpr s rd (boolWord_decide _), next_onlyGpr s rd (boolWord_decide _)⟩

end Sys2Proof.Machine
end

section
/-! SUPPORT. Multiply, divide and the moves of HI and LO (spec/42_r_hilo.md, spec/70_reset_and_hazards.md R337). -/

namespace Sys2Proof.Machine

/-! ## Products -/

/-- The two words of a product are the product. -/
theorem highWord_append_lowWord (p : BitVec 64) : (highWord p ++ lowWord p : BitVec 64) = p := by
  have h : highWord p ++ lowWord p = p.extractLsb' 0 (32 + 32) :=
    BitVec.extractLsb'_append_extractLsb'_eq_extractLsb' (by rfl)
  exact h.trans BitVec.extractLsb'_eq_self

/-- The signed product of two words fits in 64 bits. -/
theorem signedProduct_toInt (a b : Word) : (signedProduct a b).toInt = a.toInt * b.toInt := by
  have hbound (x : Word) : |x.toInt| ≤ 2 ^ 31 := by
    have h1 := BitVec.le_toInt x
    have h2 := BitVec.toInt_lt (x := x)
    rw [abs_le]
    omega
  have hprod : |a.toInt * b.toInt| ≤ 2 ^ 31 * 2 ^ 31 := by
    rw [abs_mul]
    exact mul_le_mul (hbound a) (hbound b) (abs_nonneg _) (by norm_num)
  rw [abs_le] at hprod
  exact BitVec.toInt_ofInt_eq_self (by decide) (by omega) (by omega)

theorem unsignedProduct_toNat (a b : Word) : (unsignedProduct a b).toNat = a.toNat * b.toNat := by
  have h : a.toNat * b.toNat < 2 ^ 32 * 2 ^ 32 := Nat.mul_lt_mul'' a.isLt b.isLt
  exact Nat.mod_eq_of_lt h

/-- Settles O33. -/
theorem multiplyGivesTheExactProduct : Obligations.MultiplyGivesTheExactProduct := by
  intro s rs rt
  refine ⟨⟨_, _, _, rfl, writeHiLo_onlyHiLo s _ _, ?_⟩, ⟨_, _, _, rfl, writeHiLo_onlyHiLo s _ _, ?_⟩⟩
  · rw [highWord_append_lowWord, signedProduct_toInt]
  · rw [highWord_append_lowWord, unsignedProduct_toNat]

/-! ## Division -/

/-- The one overflowing division, by its signed operands (R162). -/
theorem divOverflows_iff (a b : Word) : divOverflows a b = true ↔ a.toInt = -2 ^ 31 ∧ b.toInt = -1 := by
  have ha : a.toInt = -2 ^ 31 ↔ a = 0x80000000 := BitVec.toInt_inj (y := 0x80000000#32)
  have hb : b.toInt = -1 ↔ b = 0xFFFFFFFF := BitVec.toInt_inj (y := 0xFFFFFFFF#32)
  rw [divOverflows, Bool.and_eq_true, beq_iff_eq, beq_iff_eq, ha, hb]

/-- A quotient that does not overflow is the word's, truncated toward zero (D9). -/
theorem signedQuotient_toInt {a b : Word} (h : divOverflows a b = false) :
    (BitVec.ofInt 32 (signedQuotient a b)).toInt = a.toInt.tdiv b.toInt := by
  have hne : a ≠ BitVec.intMin 32 ∨ b ≠ -1#32 := by
    by_contra hc
    push Not at hc
    obtain ⟨rfl, rfl⟩ := hc
    exact absurd h (by decide)
  have hq := BitVec.toInt_sdiv_of_ne_or_ne a b hne
  rw [signedQuotient, ← hq, BitVec.ofInt_toInt]

/-- The remainder is the one of truncated division, with the dividend's sign (D9). -/
theorem signedRemainder_toInt (a b : Word) :
    (BitVec.ofInt 32 (signedRemainder a b)).toInt = a.toInt.tmod b.toInt := by
  have hr : signedRemainder a b = (a.srem b).toInt := by
    rw [BitVec.toInt_srem, Int.tmod_def, signedRemainder, signedQuotient, Int.mul_comm]
  rw [hr, BitVec.ofInt_toInt, BitVec.toInt_srem]

theorem exec_div_overflow {s : State} {rs rt : Reg} (hz : s.readGPR rt ≠ 0)
    (ho : divOverflows (s.readGPR rs) (s.readGPR rt) = true) :
    exec (.div rs rt) s = .next (s.writeHiLo s.params.divOvfHi s.params.divOvfLo) :=
  (if_neg hz).trans (if_pos ho)

theorem exec_div_quotient {s : State} {rs rt : Reg} (hz : s.readGPR rt ≠ 0)
    (ho : divOverflows (s.readGPR rs) (s.readGPR rt) = false) :
    exec (.div rs rt) s = .next (s.writeHiLo (BitVec.ofInt 32 (signedRemainder (s.readGPR rs) (s.readGPR rt)))
      (BitVec.ofInt 32 (signedQuotient (s.readGPR rs) (s.readGPR rt)))) :=
  (if_neg hz).trans (if_neg (by simp [ho]))

theorem exec_divu_quotient {s : State} {rs rt : Reg} (hz : s.readGPR rt ≠ 0) :
    exec (.divu rs rt) s = .next (s.writeHiLo (BitVec.ofNat 32 ((s.readGPR rs).toNat % (s.readGPR rt).toNat))
      (BitVec.ofNat 32 ((s.readGPR rs).toNat / (s.readGPR rt).toNat))) :=
  if_neg hz

theorem toNat_ofNat_of_le {n : Nat} {a : Word} (h : n ≤ a.toNat) : (BitVec.ofNat 32 n).toNat = n :=
  Nat.mod_eq_of_lt (Nat.lt_of_le_of_lt h a.isLt)

/-- Settles O34: the divisor is zero, or the quotient overflows, or neither. -/
theorem divideGivesQuotientAndRemainder : Obligations.DivideGivesQuotientAndRemainder := by
  intro s rs rt a b
  constructor
  · by_cases hz : b = 0
    · have hb : b.toInt ≠ -1 := by rw [hz]; decide
      exact ⟨s, _, _, exec_div_zero hz, same_onlyHiLo s, fun _ => ⟨rfl, rfl⟩, fun _ h => absurd h hb,
        fun h => absurd hz h⟩
    cases ho : divOverflows a b with
    | true =>
      have hover := (divOverflows_iff a b).1 ho
      exact ⟨_, _, _, exec_div_overflow hz ho, writeHiLo_onlyHiLo s _ _, fun h => absurd h hz, fun _ _ => ⟨rfl, rfl⟩,
        fun _ h => absurd hover h⟩
    | false =>
      exact ⟨_, _, _, exec_div_quotient hz ho, writeHiLo_onlyHiLo s _ _, fun h => absurd h hz,
        fun h₁ h₂ => absurd ((divOverflows_iff a b).2 ⟨h₁, h₂⟩) (by simp [ho]),
        fun _ _ => ⟨signedQuotient_toInt ho, signedRemainder_toInt a b⟩⟩
  · by_cases hz : b = 0
    · exact ⟨s, _, _, exec_divu_zero hz, same_onlyHiLo s, fun _ => ⟨rfl, rfl⟩, fun h => absurd hz h⟩
    · exact ⟨_, _, _, exec_divu_quotient hz, writeHiLo_onlyHiLo s _ _, fun h => absurd h hz,
        fun _ => ⟨toNat_ofNat_of_le (Nat.div_le_self _ _), toNat_ofNat_of_le (Nat.mod_le _ _)⟩⟩

/-! ## Moves -/

/-- Settles O35. -/
theorem hiLoMovesCopyOneRegister : Obligations.HiLoMovesCopyOneRegister :=
  fun s r => ⟨next_onlyGpr s r rfl, next_onlyGpr s r rfl, ⟨_, rfl, writeHI_onlyHiLo s _⟩,
    ⟨_, rfl, writeLO_onlyHiLo s _⟩⟩

/-! ## There is no HI/LO hazard (R337) -/

/-- Above its low word a product is its floored quotient by 2^32. -/
theorem highWord_toInt (p : BitVec 64) : (highWord p).toInt = p.toInt / 2 ^ 32 := by
  have h := congrArg BitVec.toInt (highWord_append_lowWord p)
  rw [BitVec.toInt_append, if_neg (by decide)] at h
  have := (lowWord p).isLt
  omega

/-- The low word of a product is its remainder by 2^32. -/
theorem lowWord_toNat (p : BitVec 64) : ((lowWord p).toNat : Int) = p.toInt % 2 ^ 32 := by
  have h := congrArg BitVec.toInt (highWord_append_lowWord p)
  rw [BitVec.toInt_append, if_neg (by decide)] at h
  have := (lowWord p).isLt
  omega

/-- Settles O49: mult commits the words of the product to HI and LO, and the move copies one of them. -/
theorem productIsReadByTheNextInstruction : Obligations.ProductIsReadByTheNextInstruction := by
  rintro s t u rs rt rd ⟨w, hw, hd⟩ hs ht hz
  obtain ⟨t', ht', rfl⟩ := step_instr hw hd hs
  obtain rfl := Host.Outcome.next.inj ht'
  constructor
  · rintro ⟨w', hw', hd'⟩
    obtain ⟨u', hu', rfl⟩ := step_instr hw' hd' ht
    obtain rfl := Host.Outcome.next.inj hu'
    rw [commit_cur, writeGPR_nxt_get, if_pos ⟨rfl, hz⟩, ← signedProduct_toInt, ← highWord_toInt]
    rfl
  · rintro ⟨w', hw', hd'⟩
    obtain ⟨u', hu', rfl⟩ := step_instr hw' hd' ht
    obtain rfl := Host.Outcome.next.inj hu'
    rw [commit_cur, writeGPR_nxt_get, if_pos ⟨rfl, hz⟩, ← signedProduct_toInt, ← lowWord_toNat]
    rfl

end Sys2Proof.Machine
end

section
/-! SUPPORT. Jumps, branches and register 0 (spec/43_r_control.md, spec/44_i_branch.md, spec/47_j_jump.md, spec/10_state.md
R21, spec/70_reset_and_hazards.md R335). -/

namespace Sys2Proof.Machine

/-! ## Branches -/

/-- A branch to, or past, a value of PC(next) under any spelling of the choice. -/
theorem next_onlyPC (s : State) (c : Bool) (imm : BitVec 16) {p : Word}
    (h : (if c then s.branchTarget imm else s.nxt.pc) = p) :
    ∃ t, (.next (s.branchIf c imm) : Host.Outcome State Fault Refusal) = .next t ∧ OnlyPC s t p :=
  ⟨_, rfl, h ▸ branchIf_onlyPC s c imm⟩

/-- Settles O38: each condition is the statement's, or its negation with the choice turned round. -/
theorem branchesWriteOnlyThePC : Obligations.BranchesWriteOnlyThePC := by
  intro s rs rt imm a b
  have hturned {p : Prop} [Decidable p] {c : Bool} (h : c = true ↔ ¬p) (x y : Word) :
      (if c then x else y) = if p then y else x := by
    by_cases hp : p <;> simp [h, hp]
  exact ⟨next_onlyPC s _ imm (by simp [a, b]), next_onlyPC s _ imm (hturned (by simp [a, b]) _ _),
    next_onlyPC s _ imm (by simp [isLeZero, a]), next_onlyPC s _ imm (hturned (by simp [isGtZero, a]) _ _),
    next_onlyPC s _ imm (by simp [isLtZero, a]), next_onlyPC s _ imm (hturned (by simp [isGeZero, a]) _ _)⟩

/-! ## Linking branches -/

/-- Taken, a linking branch is a link and a jump (R207, R208). -/
theorem link_taken (s : State) (imm : BitVec 16) :
    OnlyGprAndPC s ((s.linkIf true).branchIf true imm) linkReg (s.cur.pc + 4) (s.branchTarget imm) := by
  have h : (s.linkIf true).branchIf true imm =
      (s.writeGPR linkReg s.pcPlus4).writePC ((s.writeGPR linkReg s.pcPlus4).branchTarget imm) := rfl
  rw [h, writeGPR_writePC, State.branchTarget, writeGPR_cur]
  exact linkAndJump_only s _ _ _

/-- Not taken, it links under REGIMM_LINK_ALWAYS (R12). -/
theorem link_notTaken {s : State} (imm : BitVec 16) (h : s.params.linkAlways = true) :
    OnlyGprAndPC s ((s.linkIf false).branchIf false imm) linkReg (s.cur.pc + 4) s.nxt.pc := by
  have hlink : (s.linkIf false).branchIf false imm = s.writeGPR linkReg s.pcPlus4 := if_pos h
  rw [hlink]
  exact writeGPR_gprAndPC s _ _

/-- Not taken and without REGIMM_LINK_ALWAYS, it changes nothing. -/
theorem noLink_notTaken {s : State} (imm : BitVec 16) (h : s.params.linkAlways = false) :
    (s.linkIf false).branchIf false imm = s := by
  simp [State.linkIf, State.branchIf, h]

theorem exec_bltzal {s : State} {rs : Reg} {c : Bool} (h : isLtZero (s.readGPR rs) = c) (imm : BitVec 16) :
    exec (.bltzal rs imm) s = .next ((s.linkIf c).branchIf c imm) := h ▸ rfl

theorem exec_bgezal {s : State} {rs : Reg} {c : Bool} (h : isGeZero (s.readGPR rs) = c) (imm : BitVec 16) :
    exec (.bgezal rs imm) s = .next ((s.linkIf c).branchIf c imm) := h ▸ rfl

/-- Settles O39, by the three cases of a linking branch. -/
theorem linkingBranchesLinkByTheParameter : Obligations.LinkingBranchesLinkByTheParameter := by
  intro s rs imm
  refine ⟨fun h => ⟨_, exec_bltzal (decide_eq_true h) imm, link_taken s imm⟩,
    fun h hp => ⟨_, exec_bltzal (decide_eq_false h) imm, link_notTaken imm hp⟩, fun h hp => ?_,
    fun h => ⟨_, exec_bgezal (decide_eq_true h) imm, link_taken s imm⟩,
    fun h hp => ⟨_, exec_bgezal (decide_eq_false h) imm, link_notTaken imm hp⟩, fun h hp => ?_⟩
  · rw [exec_bltzal (decide_eq_false h), noLink_notTaken imm hp]
  · rw [exec_bgezal (decide_eq_false h), noLink_notTaken imm hp]

/-! ## Jumps -/

/-- Settles O36. -/
theorem registerJumpsGoToTheOldValue : Obligations.RegisterJumpsGoToTheOldValue :=
  fun s rd _ => ⟨⟨_, rfl, writePC_onlyPC s _⟩, ⟨_, rfl, linkAndJump_only s rd _ _⟩⟩

/-- jal is a link and a jump, which do not disturb each other (R261). -/
theorem exec_jal (s : State) (target : BitVec 26) :
    exec (.jal target) s = .next ((s.writePC (s.jumpTarget target)).writeGPR linkReg (s.cur.pc + 4)) :=
  congrArg Host.Outcome.next (writeGPR_writePC s _ _ _)

/-- Settles O46: the word of opcode 3 is the encoding of jal. -/
theorem jumpAndLinkLinksRegister31 : Obligations.JumpAndLinkLinksRegister31 :=
  ⟨fun m target => decode_encode m (.jal target),
    fun s target => ⟨_, _, exec_jal s target, linkAndJump_only s _ _ _, jumpTarget_eq_append s target⟩⟩

/-! ## There is no delay slot (R335) -/

/-- Settles O50: jal commits the link to r31, and jr of r31 jumps to it and writes PC alone. -/
theorem callReturnsToTheInstructionAfterIt : Obligations.CallReturnsToTheInstructionAfterIt := by
  rintro s t u target ⟨w, hw, hd⟩ hs ⟨w', hw', hd'⟩ ht
  obtain ⟨t', ht', rfl⟩ := step_instr hw hd hs
  have hcall : OnlyGprAndPC (s.fetched w) t' 31 (s.cur.pc + 4) ((s.fetched w).jumpTarget target) := by
    rw [exec_jal] at ht'
    exact Host.Outcome.next.inj ht' ▸ linkAndJump_only _ _ _ _
  obtain ⟨u', hu', rfl⟩ := step_instr hw' hd' ht
  have hreturn : OnlyPC (t'.commit.fetched w') u' (t'.commit.readGPR 31) :=
    Host.Outcome.next.inj hu' ▸ writePC_onlyPC _ _
  obtain ⟨hgpr, -, ⟨hhi, hlo⟩, hmem, -⟩ := hcall
  obtain ⟨hpc', hgpr', ⟨hhi', hlo'⟩, hmem', -⟩ := hreturn
  have hlink : t'.nxt.gpr.get 31 = s.cur.pc + 4 := (hgpr 31).trans (if_pos ⟨rfl, fun h => absurd h.2 (by decide)⟩)
  exact ⟨hpc'.trans ((readGPR_plain _ 31 (.inr (by decide))).trans hlink), (hgpr' 31).trans hlink,
    fun r hr => (hgpr' r).trans ((hgpr r).trans (if_neg fun h => hr h.1)), hhi'.trans hhi, hlo'.trans hlo,
    fun a => (hmem' a).trans (hmem a)⟩

/-! ## Register 0 (R21) -/

/-- Settles O24. -/
theorem registerZeroIsOrdinaryUnlessHardwired : Obligations.RegisterZeroIsOrdinaryUnlessHardwired := by
  intro s r v
  refine ⟨fun h => ⟨?_, fun q hq => ?_⟩, fun h => ⟨writeGPR_dropped s v h, readGPR_zero_hardwired s h,
    readGPR_zero_hardwired _ (by simpa using h)⟩⟩
  · rw [readGPR_plain _ _ (.inl (by simpa using h)), commit_cur, writeGPR_nxt_get, if_pos ⟨rfl, by simp [h]⟩]
  · rw [readGPR_plain _ _ (.inl (by simpa using h)), commit_cur, writeGPR_nxt_get, if_neg (fun hc => hq hc.1)]
    exact (readGPR_plain s.commit q (.inl h)).symm

end Sys2Proof.Machine
end

section
/-! SUPPORT. Memory seen by words, loads and stores (spec/20_memory.md, spec/46_i_loadstore.md). -/

namespace Sys2Proof.Machine.Memory

/-! ## The canonical form determines the list (log 7) -/

theorem read_cons_same (a : Nat) (b : Byte) (m : Memory) : read ((a, b) :: m) a = b := if_pos rfl

theorem read_cons_other {a x : Nat} (h : x ≠ a) (b : Byte) (m : Memory) : read ((a, b) :: m) x = m.read x := if_neg h

/-- Below its first address a canonical list reads as nothing, and at it as something. -/
theorem firstAddress_le {lo lo' a a' : Nat} {b b' : Byte} {m m' : Memory} (h : wfFrom lo ((a, b) :: m) = true)
    (h' : wfFrom lo' ((a', b') :: m') = true) (hread : read ((a, b) :: m) a = read ((a', b') :: m') a) : a' ≤ a := by
  obtain ⟨-, -, hb, -⟩ := wfFrom_cons.1 h
  obtain ⟨-, h'⟩ := wfFrom_cons.1 h'
  by_contra hlt
  have hnone : read ((a', b') :: m') a = unlisted := read_below (wfFrom_cons.2 ⟨Nat.le_refl a', h'⟩) (by omega)
  exact hb ((read_cons_same a b m).symm.trans (hread.trans hnone))

theorem eq_of_read_eq {lo lo' : Nat} {m m' : Memory} (h : wfFrom lo m = true) (h' : wfFrom lo' m' = true)
    (hread : ∀ x, m.read x = m'.read x) : m = m' := by
  induction m generalizing lo lo' m' with
  | nil =>
    cases m' with
    | nil => rfl
    | cons c m' =>
      obtain ⟨-, -, hc, -⟩ := wfFrom_cons.1 h'
      exact absurd ((read_cons_same ..).symm.trans (hread c.1).symm) hc
  | cons c m ih =>
    cases m' with
    | nil =>
      obtain ⟨-, -, hc, -⟩ := wfFrom_cons.1 h
      exact absurd ((read_cons_same ..).symm.trans (hread c.1)) hc
    | cons c' m' =>
      obtain ⟨a, b⟩ := c
      obtain ⟨a', b'⟩ := c'
      obtain rfl : a = a' := Nat.le_antisymm (firstAddress_le h' h (hread a').symm) (firstAddress_le h h' (hread a))
      obtain rfl : b = b' := by simpa only [read_cons_same] using hread a
      obtain ⟨-, -, -, hm⟩ := wfFrom_cons.1 h
      obtain ⟨-, -, -, hm'⟩ := wfFrom_cons.1 h'
      rw [ih hm hm' fun x => ?_]
      by_cases hx : x = a
      · rw [read_below hm (by omega), read_below hm' (by omega)]
      · simpa only [read_cons_other hx] using hread x

/-- Settles O28. -/
theorem canonicalMemoriesWithEqualReadsAreEqual : Obligations.CanonicalMemoriesWithEqualReadsAreEqual :=
  fun _ _ => eq_of_read_eq

/-! ## Addresses and bytes of a write (R52, R68) -/

theorem byteAddr_eq (a : Word) (k : Nat) : byteAddr a k = (a.toNat + k) % 2 ^ 32 := by
  rw [byteAddr, BitVec.toNat_add, BitVec.toNat_ofNat]
  omega

/-- Settles O25, by the rules for the bytes outside and inside a write. -/
theorem writeChangesExactlyItsBytes : Obligations.WriteChangesExactlyItsBytes := by
  intro m o a v w
  simp only [← byteAddr_eq]
  exact ⟨fun x hx => read_write32_outside o a v w x m hx,
    fun hm => ⟨wf_write32 o a v w hm, fun k hk => read_write32_inside o a v w hm hk⟩⟩

/-! ## Words by their bytes (R55) -/

/-- A word is its four bytes in a row. -/
theorem bytes_append (v : Word) :
    v.extractLsb' 24 8 ++ v.extractLsb' 16 8 ++ v.extractLsb' 8 8 ++ v.extractLsb' 0 8 = v := by
  rw [extract_join v (by rfl), extract_join v (by rfl), extract_join v (by rfl)]
  exact BitVec.extractLsb'_eq_self

/-- Settles O26: each of the four bytes read is the one written. -/
theorem wordReadsBackAsWritten : Obligations.WordReadsBackAsWritten := by
  intro m o a v hm
  have hbyte (k : Nat) (hk : k < 4) : (m.write32 o a v .b32).read (byteAddr a k) = storedByte o 4 v k :=
    read_write32_inside o a v .b32 hm hk
  cases o <;>
    simp only [read32, hbyte 0 (by decide), hbyte 1 (by decide), hbyte 2 (by decide), hbyte 3 (by decide)] <;>
    exact bytes_append v

/-! ## Mixed widths (R56) -/

/-- Four bytes in a row are two halfwords in a row. -/
theorem append_halves (x y z u : Byte) : (x ++ y ++ z ++ u : Word) = (x ++ y : BitVec 16) ++ (z ++ u : BitVec 16) :=
  BitVec.append_assoc

theorem highHalf_of_bytes (x y z u : Byte) : (x ++ y ++ z ++ u : Word).extractLsb' 16 16 = x ++ y := by
  rw [append_halves]
  exact BitVec.extractLsb'_append_eq_left

theorem lowByte_of_bytes (x y z u : Byte) : (x ++ y ++ z ++ u : Word).extractLsb' 0 8 = u :=
  BitVec.extractLsb'_append_eq_right

theorem byteAddr_add (a : Word) (k : Nat) : byteAddr (a + BitVec.ofNat 32 k) 0 = byteAddr a k := by
  simp [byteAddr]

theorem byteAddr_ne (a : Word) {i j : Nat} (hi : i < 4) (hj : j < 4) (h : i ≠ j) : byteAddr a i ≠ byteAddr a j :=
  fun he => h (byteAddr_inj (by omega) (by omega) he)

/-- A halfword store at a leaves byte j of the word at a, for j from 2 on. -/
theorem read_writeHalf_above (m : Memory) (a v : Word) {j : Nat} (hj : j < 4) (h : 2 ≤ j) :
    (m.write32 .little a v .b16).read (byteAddr a j) = m.read (byteAddr a j) :=
  read_write32_outside _ _ _ _ _ _ fun i hi => by
    have hi : i < 2 := hi
    exact byteAddr_ne a hj (by omega) (by omega)

/-- A byte store at a + 1 leaves the other bytes of the word at a. -/
theorem read_writeByte_beside (m : Memory) (a v : Word) {j : Nat} (hj : j < 4) (h : j ≠ 1) :
    (m.write32 .little (a + 1) v .b8).read (byteAddr a j) = m.read (byteAddr a j) :=
  read_write32_outside _ _ _ _ _ _ fun i hi => by
    obtain rfl : i = 0 := Nat.lt_one_iff.1 hi
    exact byteAddr_add a 1 ▸ byteAddr_ne a hj (by decide) h

theorem read_writeByte_at (a v : Word) {m : Memory} (hm : m.wf = true) :
    (m.write32 .little (a + 1) v .b8).read (byteAddr a 1) = v.extractLsb' 0 8 := by
  rw [← byteAddr_add a 1]
  exact read_write32_inside .little (a + 1) v .b8 hm (by decide)

/-- Settles O27: the bytes a read sees are the stored ones inside the store and the old ones beside it. -/
theorem mixedWidthAccessesAreLittleEndian : Obligations.MixedWidthAccessesAreLittleEndian := by
  intro m a v hm
  refine ⟨fun k hk => ?_, ?_, ?_⟩
  · rw [signByte, read32, lowByte_of_bytes, byteAddr_add, read_write32_inside .little a v .b32 hm hk]
    rfl
  · have hinside (k : Nat) (hk : k < 2) :
        (m.write32 .little a v .b16).read (byteAddr a k) = v.extractLsb' (8 * k) 8 :=
      read_write32_inside .little a v .b16 hm hk
    have hlow : v.extractLsb' 8 8 ++ v.extractLsb' 0 8 = v.extractLsb' 0 16 := extract_join v (by rfl)
    simp only [read32]
    rw [read_writeHalf_above m a v (by decide) (by decide), read_writeHalf_above m a v (by decide) (by decide),
      hinside 1 (by decide), hinside 0 (by decide), highHalf_of_bytes, append_halves, ← hlow]
  · simp only [read32]
    rw [read_writeByte_beside m a v (by decide) (by decide), read_writeByte_beside m a v (by decide) (by decide),
      read_writeByte_at a v hm, read_writeByte_beside m a v (by decide) (by decide), highHalf_of_bytes, lowByte_of_bytes]

end Sys2Proof.Machine.Memory

namespace Sys2Proof.Machine

/-! ## Fetching what was written -/

/-- Settles O29: the store is at the PC of the next state, where the word reads back. -/
theorem storeIsSeenByTheNextFetch : Obligations.StoreIsSeenByTheNextFetch := by
  rintro s t rt rs imm hm ⟨w, hw, hd⟩ hea h
  obtain ⟨u, hu, rfl⟩ := step_instr hw hd h
  obtain ⟨ha, hu'⟩ | ⟨-, hu'⟩ := storeTo_cases (s.fetched w) (s.effAddr rs imm) (s.readGPR rt) .b32
  · obtain rfl := Host.Outcome.next.inj (hu.symm.trans hu')
    rw [hea] at ha ⊢
    exact ⟨hw.1, ha, Memory.wordReadsBackAsWritten _ _ _ _ hm⟩
  · cases hu.symm.trans hu'

/-- Under admitFetch the fetch is admitted, as before or by the whole space (log 17). -/
theorem admits_admitFetch (p : MemParams) (a : Word) : admits (admitFetch p a) a 4 = true := by
  unfold admitFetch
  split
  · assumption
  · exact admits_everything rfl rfl a 4

theorem admitFetch_order (p : MemParams) (a : Word) : (admitFetch p a).order = p.order := by
  unfold admitFetch
  split <;> rfl

/-- Settles O23: the word laid at the PC reads back in the collaborator's order, which admitting the fetch keeps. -/
theorem placedWordIsFetched : Obligations.PlacedWordIsFetched := by
  intro s w hm
  refine ⟨rfl, admits_admitFetch _ _, ?_⟩
  have hw : BitVec.ofNat 32 (w.toNat % 2 ^ 32) = w := by
    rw [Nat.mod_eq_of_lt w.isLt, BitVec.ofNat_toNat, BitVec.setWidth_eq]
  change ((s.placeWord (BitVec.ofNat 32 (w.toNat % 2 ^ 32))).mem.read32 (admitFetch s.params.mem s.cur.pc).order
    s.cur.pc) = w
  rw [hw, admitFetch_order]
  exact Memory.wordReadsBackAsWritten _ _ _ _ hm

/-! ## Loads and stores -/

/-- An admitted load completes, under any spelling of the value (R241). -/
theorem load_completes {s : State} {ea : Word} (ha : admits s.params.mem ea 4 = true) (rt : Reg) (f : Word → Word)
    {v : Word} (hv : f (s.mem.read32 s.params.mem.order ea) = v) :
    ∃ t, s.loadTo rt ea f = .next t ∧ OnlyLoaded s t rt v ea (s.mem.read32 s.params.mem.order ea) :=
  ⟨_, loadTo_admitted rt f ha, hv ▸ load_onlyLoaded s rt ea _ _⟩

/-- Settles O42. -/
theorem admittedLoadsComplete : Obligations.AdmittedLoadsComplete :=
  fun _ rt _ _ ha => ⟨load_completes ha rt signByte rfl, load_completes ha rt signHalf rfl,
    load_completes ha rt wholeWord rfl, load_completes ha rt zeroByte (zeroByte_eq_ofNat _),
    load_completes ha rt zeroHalf (zeroHalf_eq_ofNat _)⟩

/-- An admitted store completes, under any spelling of the value. -/
theorem store_completes {s : State} (hm : s.mem.wf = true) {ea : Word} {w : Width}
    (ha : admits s.params.mem ea w.bytes = true) {v v' : Word} (hv : v = v') :
    ∃ t, s.storeTo ea v w = .next t ∧ OnlyStored s t ea v' w :=
  ⟨_, storeTo_admitted v ha, hv ▸ store_onlyStored hm ea v w⟩

/-- Settles O43. -/
theorem admittedStoresComplete : Obligations.AdmittedStoresComplete :=
  fun _ _ _ _ hm => ⟨fun ha => store_completes hm ha (zeroByte_eq_ofNat _),
    fun ha => store_completes hm ha (zeroHalf_eq_ofNat _), fun ha => store_completes hm ha rfl⟩

/-- Settles O44, by exec_declined. -/
theorem declinedAccessesAreStuck : Obligations.DeclinedAccessesAreStuck :=
  fun _ rt rs imm =>
    ⟨fun h => ⟨exec_declined (i := .lb rt rs imm) rfl h, exec_declined (i := .lh rt rs imm) rfl h,
      exec_declined (i := .lw rt rs imm) rfl h, exec_declined (i := .lbu rt rs imm) rfl h,
      exec_declined (i := .lhu rt rs imm) rfl h, exec_declined (i := .sw rt rs imm) rfl h⟩,
      exec_declined (i := .sh rt rs imm) rfl, exec_declined (i := .sb rt rs imm) rfl⟩

end Sys2Proof.Machine
end
